-- ==== Sys2Proof/Word.lean ====
section
/-! DEFINITION. The widths of the sequencer's values (00_scope.md R7, R8; 10_state.md section 2). -/

namespace Sys2Proof

/-- The unit of every transfer: the sequencer deals in whole bytes only (R54, R57). -/
abbrev Byte := BitVec 8

/-- A device address: `ADDR_W = 24` bits (R7, R25). -/
abbrev Addr := BitVec 24

/-- A host byte count: `LEN_W = 16` bits (R7, R26). -/
abbrev Len := BitVec 16

/-- A timeout or poll count: `TIMEOUT_W = 32` bits (R7, R28). -/
abbrev Millis := BitVec 32

end Sys2Proof
end

