-- ==== Sys2Proof/Config.lean ====
section
/-! DEFINITION. What is fixed while the machine runs: the configuration record of R7, its constants, and the values
the spec leaves free (constants with no body). It also holds the events of a trace (R10), because the free answers of
the transport are functions of the history of events (R130). -/

namespace Sys2Proof

/-- One event of a trace (R10): the transport requests, an exchange together with its answer (`none` is `ERR`).
`blockReset` is no transport request: it is the model's mark that a block reset dropped the select line without a
`Desel()` (R242; log 11). -/
inductive Event where
  | sel
  | desel
  | xchg (tx : List Byte) (rx : Option (List Byte))
  | delay (ms : Nat)
  | blockReset
  deriving DecidableEq, Repr

/-- The OPEN fields of the configuration record `CFG` (R7; U12: theorems hold for all values). -/
structure Cfg where
  /-- `PAGE_SIZE`: the bound on `LEN`. -/
  pageSize : Nat
  /-- `PAGES_PER_SECTOR`: no rule reads it. -/
  pagesPerSector : Nat
  /-- `WEL_BIT`: the status bit that means write-enable latch set. -/
  welBit : Nat
  /-- `FILLER`: the byte sent where a frame has a filler. -/
  filler : Byte
  /-- `TO_WE_MS`: timeout of both waits inside `writeEnable`. -/
  toWe : Millis
  /-- `TO_RESET_MS`: timeout of the wait after `reset`. -/
  toReset : Millis
  /-- `TO_ERASE_MS`: timeout of the wait after `sectorErase`. -/
  toErase : Millis
  /-- `TO_PROG_MS`: timeout of the wait after `pageProgram`. -/
  toProg : Millis
  deriving DecidableEq, Repr

namespace Config

/-- `HDR`: opcode plus address bytes (R7). -/
def hdr : Nat := 4
/-- `BUSY_BIT` (R7; D3). -/
def busyBit : Nat := 0
/-- `POLL_DELAY_MS` (R7). -/
def pollDelayMs : Nat := 1
/-- `RST_GAP_MS` (R7). -/
def rstGapMs : Nat := 1
/-- `RST_SETTLE_MS` (R7). -/
def rstSettleMs : Nat := 2

/-- Free value: gives `PAGE_SIZE` at reset (OPEN, D6; log 4). -/
opaque freePageSize : Nat
/-- Free value: `PAGES_PER_SECTOR` at reset (OPEN, D6; log 4). -/
opaque freePagesPerSector : Nat
/-- Free value: gives `WEL_BIT` at reset (OPEN, D4; log 4). -/
opaque freeWelBit : Nat
/-- Free value: `FILLER` at reset (OPEN, D5; log 4). -/
opaque freeFiller : Byte
/-- Free value: `TO_WE_MS` at reset (OPEN, D7; log 4). -/
opaque freeToWe : Millis
/-- Free value: `TO_RESET_MS` at reset (OPEN, D7; log 4). -/
opaque freeToReset : Millis
/-- Free value: `TO_ERASE_MS` at reset (OPEN, D7; log 4). -/
opaque freeToErase : Millis
/-- Free value: `TO_PROG_MS` at reset (OPEN, D7; log 4). -/
opaque freeToProg : Millis

/-- The configuration of the machine at hand: any value that meets the constraints of R7, none of them known. -/
def implementation : Cfg where
  pageSize := freePageSize % 65535 + 1
  pagesPerSector := freePagesPerSector
  welBit := freeWelBit % 7 + 1
  filler := freeFiller
  toWe := freeToWe
  toReset := freeToReset
  toErase := freeToErase
  toProg := freeToProg

/-- Free value: whether the transport completes an exchange, given the history of events and the frame (R130). -/
opaque oracleOk : List Event → List Byte → Bool
/-- Free value: the byte received at a position of that exchange (R130). -/
opaque oracleByte : List Event → List Byte → Nat → Byte
/-- Free value: where a failed exchange stopped ("how many bytes were in fact exchanged is unknown", R124). -/
opaque cutAt : List Event → List Byte → Nat

end Config

/-- The constraints R7 puts on a `CFG`. The widths of the four timeouts are in their type. -/
def Cfg.ok (c : Cfg) : Bool :=
  decide (1 ≤ c.pageSize) && decide (c.pageSize ≤ 2 ^ 16 - 1) && decide (c.welBit ≤ 7) &&
    decide (c.welBit ≠ Config.busyBit)

end Sys2Proof
end

