-- ==== Sys2Proof/Syntax.lean ====
section
/-! DEFINITION. The instructions: one constructor per row of spec/opcode_table.json, on the two levels of R3. -/

namespace Sys2Proof

/-- The instruction set of the sequencer (R3, R84, R88). The first eleven are wire commands, the first byte of a
frame. The last six are the operations a host can start. -/
inductive Instr where
  /-- 0x66, reset-enable (R161). -/
  | rsten
  /-- 0x99, reset (R162). -/
  | rst
  /-- 0x9F, read-id (R165). -/
  | rdid
  /-- 0x05, read-status (R141). -/
  | rdsr
  /-- 0x01, write-status: named, no frame, never emitted (R96). -/
  | wrsr
  /-- 0x06, write-enable (R146). -/
  | wren
  /-- 0x04, write-disable: named, no frame, never emitted (R97). -/
  | wrdi
  /-- 0x20, sector-erase (R166). -/
  | se (addr : Addr)
  /-- 0x02, page-program (R168). -/
  | pp (addr : Addr) (data : List Byte)
  /-- 0x03, read-data of `n` bytes (R171). -/
  | rd (addr : Addr) (n : Len)
  /-- 0xFF, labelled reset-enable by the source: never emitted (R98; C1). -/
  | rstff
  /-- `OP = 0` (R163). -/
  | reset
  /-- `OP = 1` (R164). -/
  | readJedecID
  /-- `OP = 2` (R173). -/
  | writeEnable
  /-- `OP = 3` (R167). -/
  | sectorErase (addr : Addr)
  /-- `OP = 4` (R169). The payload is the host's buffer `TXD`, not an operand of the start. -/
  | pageProgram (addr : Addr) (len : Len)
  /-- `OP = 5` (R172). -/
  | read (addr : Addr) (len : Len)
  deriving DecidableEq, Repr

end Sys2Proof
end

