-- ==== Sys2Proof/WellFormed.lean ====
section
/-! DEFINITION. Which instructions make sense under a configuration. Host operations carry no check: any address is
sent unchanged (R55), and a `LEN` above `PAGE_SIZE` is a request the sequencer answers with a result (R216). -/

namespace Sys2Proof

/-- A wire command is well formed when the spec gives it a frame (R81: no frame for write-status, write-disable and
0xFF) and the frame is no longer than `PAGE_SIZE + 4` bytes (R86, R122). -/
def Instr.wellFormed (c : Cfg) : Instr → Bool
  | .rsten => true
  | .rst => true
  | .rdid => true
  | .rdsr => true
  | .wrsr => false
  | .wren => true
  | .wrdi => false
  | .se _ => true
  | .pp _ data => decide (data.length ≤ c.pageSize)
  | .rd _ n => decide (n.toNat ≤ c.pageSize)
  | .rstff => false
  | .reset => true
  | .readJedecID => true
  | .writeEnable => true
  | .sectorErase _ => true
  | .pageProgram _ _ => true
  | .read _ _ => true

end Sys2Proof
end

