-- ==== Sys2Proof/Decode.lean ====
section
/-! DEFINITION. The encodings of 30_encoding.md, both ways: the decoder from raw codes to instructions, then the
encoder, written from the same tables. The sequencer itself only encodes frames (R92); decoding a frame is what a
trace checker does with the opcode map (R96). -/

namespace Sys2Proof

/-- A raw code on one of the two levels of R3: the host's request record less its payload (R91), or a frame (R80). -/
inductive Code where
  | request (op : BitVec 3) (addr : Addr) (len : Len)
  | frame (bytes : List Byte)
  deriving DecidableEq, Repr

/-- Why a code is no instruction. -/
inductive DecodeError where
  /-- Host codes 6 and 7 name no operation (R89). -/
  | reservedOp (op : BitVec 3)
  /-- A frame has at least its opcode (R80). -/
  | emptyFrame
  /-- Byte 0 is none of the eleven opcodes of R84. -/
  | unknownOpcode (b : Byte)
  /-- The opcode is known and the frame's length is not that of its format (R86). -/
  | badLength (b : Byte)
  deriving DecidableEq, Repr

/-! ### The opcode maps (R84, R88) -/

/-- `RSTEN` -/
def opRsten : Byte := 0x66
/-- `RST` -/
def opRst : Byte := 0x99
/-- `RDID` -/
def opRdid : Byte := 0x9F
/-- `RDSR` -/
def opRdsr : Byte := 0x05
/-- `WRSR` -/
def opWrsr : Byte := 0x01
/-- `WREN` -/
def opWren : Byte := 0x06
/-- `WRDI` -/
def opWrdi : Byte := 0x04
/-- `SE` -/
def opSe : Byte := 0x20
/-- `PP` -/
def opPp : Byte := 0x02
/-- `RD` -/
def opRd : Byte := 0x03
/-- `RSTFF` -/
def opRstff : Byte := 0xFF

/-- `OP` of `reset` -/
def hostReset : BitVec 3 := 0
/-- `OP` of `readJedecID` -/
def hostReadJedecID : BitVec 3 := 1
/-- `OP` of `writeEnable` -/
def hostWriteEnable : BitVec 3 := 2
/-- `OP` of `sectorErase` -/
def hostSectorErase : BitVec 3 := 3
/-- `OP` of `pageProgram` -/
def hostPageProgram : BitVec 3 := 4
/-- `OP` of `read` -/
def hostRead : BitVec 3 := 5

/-! ### Decoding -/

/-- The address that three bytes spell, most significant byte first (R52, R82). -/
def joinAddr (a2 a1 a0 : Byte) : Addr := a2 ++ a1 ++ a0

/-- The frames whose opcode is followed by nothing: format `F_OP` (R81). -/
def decodeBare (b : Byte) (i : Instr) : List Byte → Except DecodeError Instr
  | [] => .ok i
  | _ :: _ => .error (.badLength b)

/-- Format `F_ST`: one filler, whose value the device ignores (R81, R83). -/
def decodeStatus : List Byte → Except DecodeError Instr
  | [_] => .ok .rdsr
  | _ => .error (.badLength opRdsr)

/-- Format `F_ID`: three fillers (R81). -/
def decodeId : List Byte → Except DecodeError Instr
  | [_, _, _] => .ok .rdid
  | _ => .error (.badLength opRdid)

/-- Format `F_A`: three address bytes (R81). -/
def decodeErase : List Byte → Except DecodeError Instr
  | [a2, a1, a0] => .ok (.se (joinAddr a2 a1 a0))
  | _ => .error (.badLength opSe)

/-- Format `F_AP`: three address bytes, then the payload (R81). -/
def decodeProgram : List Byte → Except DecodeError Instr
  | a2 :: a1 :: a0 :: data => .ok (.pp (joinAddr a2 a1 a0) data)
  | _ => .error (.badLength opPp)

/-- Format `F_AR`: three address bytes, then one filler per byte to read, a count of `LEN_W` bits (R81, R86). -/
def decodeRead : List Byte → Except DecodeError Instr
  | a2 :: a1 :: a0 :: fill =>
    if fill.length < 2 ^ 16 then .ok (.rd (joinAddr a2 a1 a0) (BitVec.ofNat 16 fill.length))
    else .error (.badLength opRd)
  | _ => .error (.badLength opRd)

/-- The instruction of a frame whose byte 0 is `b` (R84). The three opcodes without a frame format are recognised by
byte 0 alone (R96). -/
def decodeOpcode (b : Byte) (rest : List Byte) : Except DecodeError Instr :=
  if b = opRsten then decodeBare b .rsten rest
  else if b = opRst then decodeBare b .rst rest
  else if b = opRdid then decodeId rest
  else if b = opRdsr then decodeStatus rest
  else if b = opWrsr then .ok .wrsr
  else if b = opWren then decodeBare b .wren rest
  else if b = opWrdi then .ok .wrdi
  else if b = opSe then decodeErase rest
  else if b = opPp then decodeProgram rest
  else if b = opRd then decodeRead rest
  else if b = opRstff then .ok .rstff
  else .error (.unknownOpcode b)

/-- A frame (R80). -/
def decodeFrame : List Byte → Except DecodeError Instr
  | [] => .error .emptyFrame
  | b :: rest => decodeOpcode b rest

/-- A host request record (R88): operands an operation does not read have no effect on it. -/
def decodeRequest (op : BitVec 3) (addr : Addr) (len : Len) : Except DecodeError Instr :=
  if op = hostReset then .ok .reset
  else if op = hostReadJedecID then .ok .readJedecID
  else if op = hostWriteEnable then .ok .writeEnable
  else if op = hostSectorErase then .ok (.sectorErase addr)
  else if op = hostPageProgram then .ok (.pageProgram addr len)
  else if op = hostRead then .ok (.read addr len)
  else .error (.reservedOp op)

/-- Total on every code, rejecting by name. -/
def decode : Code → Except DecodeError Instr
  | .request op addr len => decodeRequest op addr len
  | .frame bytes => decodeFrame bytes

/-! ### Encoding -/

/-- `A2, A1, A0` of R82: `ADDR[23:16], ADDR[15:8], ADDR[7:0]`. -/
def addrBytes (a : Addr) : List Byte :=
  [a.extractLsb' 16 8, a.extractLsb' 8 8, a.extractLsb' 0 8]

/-- Format `F_OP`: the opcode alone (R81). -/
def frameBare (b : Byte) : List Byte := [b]

/-- Format `F_ST` of read-status (R81, R141). -/
def frameStatus (c : Cfg) : List Byte := [opRdsr, c.filler]

/-- Format `F_ID` of read-id (R81, R165). -/
def frameId (c : Cfg) : List Byte := [opRdid, c.filler, c.filler, c.filler]

/-- Format `F_A` of sector-erase (R81, R166). -/
def frameErase (a : Addr) : List Byte := opSe :: addrBytes a

/-- Format `F_AP` of page-program (R81, R168). -/
def frameProgram (a : Addr) (data : List Byte) : List Byte := opPp :: (addrBytes a ++ data)

/-- Format `F_AR` of read-data (R81, R171): `n` fillers after the header (R83). -/
def frameRead (c : Cfg) (a : Addr) (n : Nat) : List Byte :=
  opRd :: (addrBytes a ++ List.replicate n c.filler)

/-- The code of an instruction. The three opcodes without a frame are given as their one byte (R96 to R98). -/
def encode (c : Cfg) : Instr → Code
  | .rsten => .frame (frameBare opRsten)
  | .rst => .frame (frameBare opRst)
  | .rdid => .frame (frameId c)
  | .rdsr => .frame (frameStatus c)
  | .wrsr => .frame (frameBare opWrsr)
  | .wren => .frame (frameBare opWren)
  | .wrdi => .frame (frameBare opWrdi)
  | .se a => .frame (frameErase a)
  | .pp a data => .frame (frameProgram a data)
  | .rd a n => .frame (frameRead c a n.toNat)
  | .rstff => .frame (frameBare opRstff)
  | .reset => .request hostReset 0 0
  | .readJedecID => .request hostReadJedecID 0 0
  | .writeEnable => .request hostWriteEnable 0 0
  | .sectorErase a => .request hostSectorErase a 0
  | .pageProgram a n => .request hostPageProgram a n
  | .read a n => .request hostRead a n

/-! ### The table's words -/

/-- The length of the shortest frame with this opcode (R86), the operand bytes being zeros. -/
def shortestFrame (b : Byte) : Nat :=
  if b = opRdsr then 2
  else if b = opRdid then 4
  else if b = opSe then 4
  else if b = opPp then 4
  else if b = opRd then 4
  else 1

/-- The code of a word of spec/opcode_table.json. The table numbers both levels from bit 0, so the words 1 to 5 of 8
bits are both a host `OP` and a wire opcode: a word of at most 8 bits below 6 is read as the host's `OP` (with
operands 0), every other word as a frame, byte 0 first (log 15). -/
def tableCode (nbits w : Nat) : Code :=
  if decide (nbits ≤ 8) && decide (w < 6) then .request (BitVec.ofNat 3 w) 0 0
  else .frame ((List.range (max (shortestFrame (BitVec.ofNat 8 w)) ((nbits + 7) / 8))).map
    fun k => BitVec.ofNat 8 (w >>> (8 * k)))

/-- The instruction the decoder reads from a word numbered as the opcode table numbers it. -/
def decodeTableWord (nbits w : Nat) : Option Instr :=
  match decode (tableCode nbits w) with
  | .ok i => some i
  | .error _ => none

end Sys2Proof
end

