-- ==== Sys2Proof/Machine/State.lean ====
section
/-! DEFINITION. Everything the spec gives the machine, as plain data (10_state.md, 43_sequencer_fsm.md), the reasons a
step can stop, and the state after block reset. Types only, and no behaviour. -/

namespace Sys2Proof.Machine

/-- A byte memory: pairs of address and byte, addresses strictly rising, no entry equal to what an unlisted address
reads as (`Memory.wf`). Used for `TXD`, `RXD` (R33) and the array of the simple device (R50). -/
abbrev Memory := List Host.Cell

/-- `MAIN` (R190). -/
inductive Main where
  | idle
  | rstEn | rstGap | rstCmd | rstSettle | rstWait
  | id
  | weWait1 | weCmd | weWait2 | weVerify
  | erCmd | erWait
  | ppCmd | ppWait
  | rdCheck | rdCmd
  deriving DecidableEq, Repr

/-- `POLL` (R190): `P_NONE`, `P_READ`, `P_DELAY`. -/
inductive Poll where
  | none | read | delay
  deriving DecidableEq, Repr

/-- `XP` (R190): `X_NONE`, `X_SEL`, `X_XCHG`, `X_DESEL`. -/
inductive Xp where
  | none | sel | xchg | desel
  deriving DecidableEq, Repr

/-- The closed result taxonomy (R90, R210). -/
inductive Result where
  | success | busy | writeEnableFailed | eraseFailed | programmingFailed | readFailed | timeout | transportError
  deriving DecidableEq, Repr

/-- The simple byte-array-backed device of the spec's vectors (95_test_vectors.md 0.3, "M1"). It is one transport among
all others and no part of the sequencer (R130; log 6). -/
structure Device where
  /-- the array (R35(c)); an erased byte is 0xFF -/
  mem : Memory
  /-- the write-enable latch (R35(a)) -/
  wel : Bool
  /-- how many status reads will still report busy (R35(b)) -/
  busyCnt : Nat
  /-- an erase or program is what keeps it busy, so the latch clears when it is done (R248) -/
  mutating : Bool
  /-- the last exchange was 0x66 -/
  armed : Bool
  /-- exchanges seen -/
  seen : Nat
  /-- the identification bytes (R35(d)) -/
  ident : Byte × Byte × Byte
  /-- busy reads after an erase -/
  bEr : Nat
  /-- busy reads after a program -/
  bPp : Nat
  /-- busy reads after a reset -/
  bRst : Nat
  /-- the exchange that fails, counted from 1 -/
  failAt : Option Nat
  /-- every status read reports busy and write-enable is ignored -/
  busyForever : Bool
  /-- write-enable is ignored -/
  noLatch : Bool
  deriving DecidableEq, Repr

/-- The transport with the device behind it, as an oracle (R11, R130). -/
inductive Transport where
  /-- the answers to the next exchanges (`none` is a failure), then free values of Config for all later ones -/
  | oracle (script : List (Option (List Byte)))
  /-- the simple device -/
  | simple (d : Device)
  deriving DecidableEq, Repr

/-- One request at the host port (R91): the record `(OP, ADDR, LEN, TXD)`. The code is raw, so that a host code that
names no operation (R89), or a bare wire command, which no host can start (R3), can be written down and rejected. -/
structure Request where
  code : Code
  txd : List Byte
  deriving DecidableEq, Repr

/-- The machine. -/
structure State where
  /-- `CFG` (R7): a parameter of the step, which no step writes (R21, R244; log 4) -/
  cfg : Cfg
  /-- `MAIN` of `STATE` (R22, R190) -/
  main : Main
  /-- `POLL` of `STATE` (R190) -/
  poll : Poll
  /-- `XP` of `STATE` (R190) -/
  xp : Xp
  /-- `SEL` (R23): true is 1, asserted -/
  sel : Bool
  /-- `OP` (R24) -/
  op : BitVec 3
  /-- `ADDR` (R25) -/
  addr : Addr
  /-- `LEN` (R26) -/
  len : Len
  /-- `IDX` (R27), `LEN_W + 1` bits -/
  idx : BitVec 17
  /-- `POLLCNT` (R28) -/
  pollcnt : Millis
  /-- `TLIM` (R28) -/
  tlim : Millis
  /-- `STATUS` (R29) -/
  status : Byte
  /-- `RESULT` (R30, R90) -/
  result : Result
  /-- `DONE` (R31) -/
  done : Bool
  /-- `ID[0]` (R32) -/
  id0 : Byte
  /-- `ID[1]` (R32) -/
  id1 : Byte
  /-- `ID[2]` (R32) -/
  id2 : Byte
  /-- `TXD`, the host's transmit buffer (R33) -/
  txd : Memory
  /-- `RXD`, the host's receive buffer (R33) -/
  rxd : Memory
  /-- the recorded `ok` and `rx` of the last exchange (R193, R36): `none` when it failed, its bytes being undefined
  then (R124; U2). How long it lasts is the model's choice (log 22): until the next exchange or the end of the
  operation -/
  answer : Option (List Byte)
  /-- the `r` of an `end(r)` that is the next step (R191, R192): the outcome of a phase is known and its transaction
  closed, and `RESULT`, `DONE` and `STATE` are not written yet (log 1) -/
  ending : Option Result
  /-- the transport requests made so far, in order (R10, R60(4)) -/
  trace : List Event
  /-- the environment's answers (R11, R130) -/
  transport : Transport
  /-- the host's requests, in the order they are to be started (R60(3), R93; log 8) -/
  port : List Request
  /-- input: block reset is asserted (R240, R242; log 11) -/
  resetLine : Bool
  /-- input: the transport does not return from a request (U9; log 12) -/
  linkHung : Bool
  deriving DecidableEq, Repr

/-- Why the machine stops. -/
inductive Fault where
  /-- Raised by every transport request while the transport does not return (U9: "stuck", R196). Safe: nothing can be
  proved of what comes after. -/
  | transportNeverReturns
  /-- Raised by a wire command whose frame is longer than `PAGE_SIZE + 4` bytes, which R122 excludes. No run reaches
  it (R216, R261). Safe. -/
  | frameTooLong
  /-- Raised by a step from a `STATE` triple that R190 does not allow, a phase with an `OP` that never enters it, or
  an end that is due where none can be (log 17).
  No run reaches it. Safe. -/
  | illFormedPhase
  deriving DecidableEq, Repr

/-- Why an instruction has no meaning in a state. -/
inductive Refusal where
  /-- Raised by exec's arm of an instruction that has no meaning yet. Safe. -/
  | notModelled (mnemonic : String)
  /-- Raised by a host operation started while one is in flight (U7: "refuse: the host has no such move"). Safe. -/
  | startWhileBusy
  /-- Raised by a wire command outside the phases that emit it, a host's attempt to start one among them (R3, R92,
  R146, R161 and the like: "the sequencer emits it only from"). Safe. -/
  | commandOutOfPhase
  /-- Raised by `WRSR` (R96; U15). Safe. -/
  | writeStatusNeverEmitted
  /-- Raised by `WRDI` (R97; U15). Safe. -/
  | writeDisableNeverEmitted
  /-- Raised by `RSTFF` (R98; U15). Safe. -/
  | resetFFNeverEmitted
  /-- Raised by a step whose request at the port is a byte sequence that is no frame of R81. Safe. -/
  | notARequest
  deriving DecidableEq, Repr

/-- The machine right after block reset (R38, R240): `STATE = S_IDLE`, `SEL = 0`, `DONE = 0`. Every other element is
unspecified by the spec and holds the value named in log 2 (DESIGN CHOICE). The configuration is free (log 4), no
answer of the transport is known (log 5) and the host has asked for nothing. -/
def State.reset : State where
  cfg := Config.implementation
  main := .idle
  poll := .none
  xp := .none
  sel := false
  op := 0
  addr := 0
  len := 0
  idx := 0
  pollcnt := 0
  tlim := 0
  status := 0
  result := .success
  done := false
  id0 := 0
  id1 := 0
  id2 := 0
  txd := []
  rxd := []
  answer := none
  ending := none
  trace := []
  transport := .oracle []
  port := []
  resetLine := false
  linkHung := false

end Sys2Proof.Machine
end

