-- ==== Sys2Proof/Machine/Flags.lean ====
section
/-! DEFINITION. The conditions a step tests (R36: the sequencer has no arithmetic flags) and the shape of `STATE`
(R190). -/

namespace Sys2Proof.Machine

/-- Bit `i` of a byte, bit 0 the least significant (R8). -/
def bitOf (b : Byte) (i : Nat) : Bool := b.getLsbD i

/-- `busy(s)` of R143. -/
def busy (status : Byte) : Bool := bitOf status Config.busyBit

/-- `wel(s)` of R143. -/
def wel (c : Cfg) (status : Byte) : Bool := bitOf status c.welBit

/-- `LEN > PAGE_SIZE` (R216), unsigned. -/
def tooLong (c : Cfg) (len : Len) : Bool := decide (c.pageSize < len.toNat)

/-- `POLLCNT >= TLIM` (R144, R149), unsigned. -/
def expired (s : State) : Bool := decide (s.tlim ≤ s.pollcnt)

/-- The five wait phases (R190). -/
def isWait : Main → Bool
  | .rstWait | .weWait1 | .weWait2 | .erWait | .ppWait => true
  | .idle | .rstEn | .rstGap | .rstCmd | .rstSettle | .id | .weCmd | .weVerify | .erCmd | .ppCmd | .rdCheck
  | .rdCmd => false

/-- The two phases whose activity is a `Delay` (R192). -/
def isDelay : Main → Bool
  | .rstGap | .rstSettle => true
  | .idle | .rstEn | .rstCmd | .rstWait | .id | .weWait1 | .weCmd | .weWait2 | .weVerify | .erCmd | .erWait
  | .ppCmd | .ppWait | .rdCheck | .rdCmd => false

/-- The operations that run the write-enable handshake (R160). -/
def usesHandshake (op : BitVec 3) : Bool :=
  decide (op = hostWriteEnable) || decide (op = hostSectorErase) || decide (op = hostPageProgram)

/-- `STATE = S_IDLE`, that is `(S_IDLE, P_NONE, X_NONE)` (R190), where no operation is in flight (R22). -/
def isIdle (s : State) : Bool :=
  decide (s.main = .idle) && decide (s.poll = .none) && decide (s.xp = .none) && decide (s.ending = none)

/-- The triples R190 allows, phase by phase: `POLL` is other than `P_NONE` only in a wait phase, and `XP` other than
`X_NONE` only while a transaction is in progress. When the end of the operation is due the phase's activity is over,
so both are `NONE`; none is due in `S_IDLE`, nor in a delay phase, which only goes on (R192). `S_WE_VERIFY` continues
for three operations only (R192, R195). -/
def tripleOk (m : Main) (p : Poll) (x : Xp) (due : Bool) (op : BitVec 3) : Bool :=
  if m = .idle then decide (p = .none) && decide (x = .none) && !due
  else if isDelay m then decide (p = .none) && decide (x = .none) && !due
  else if due then decide (p = .none) && decide (x = .none)
  else if isWait m then (decide (p = .read) && decide (x ≠ .none)) || (decide (p = .delay) && decide (x = .none))
  else decide (p = .none) && decide (x ≠ .none) && (decide (m ≠ .weVerify) || usesHandshake op)

/-- The state is in a triple R190 allows. -/
def phaseOk (s : State) : Bool := tripleOk s.main s.poll s.xp s.ending.isSome s.op

/-- The phase `m` is running its own transaction, not a poll, and its outcome is still open. -/
def atPhase (m : Main) (s : State) : Bool :=
  decide (s.main = m) && decide (s.poll = .none) && decide (s.ending = none)

/-- The phases that read the status: a wait that is polling, the verify step, the check before a read (R141, R192). -/
def readsStatus (s : State) : Bool :=
  (isWait s.main && decide (s.poll = .read) && decide (s.ending = none)) || (atPhase .weVerify s && usesHandshake s.op) || atPhase .rdCheck s

end Sys2Proof.Machine
end

