-- ==== Sys2Proof/Machine/Operands.lean ====
section
/-! DEFINITION. The operand forms: byte memories and buffer slices (R33, R50, R53), the fields of received bytes
(R87), and the bound on a frame (R122). The transmitted forms are the frames of Decode.lean (R81). -/

namespace Sys2Proof.Machine

/-! ### Byte memories -/

/-- What an address with no entry reads as (log 3). -/
def Memory.blank : Byte := 0xFF

/-- One byte. -/
def Memory.read : Memory → Nat → Byte
  | [], _ => Memory.blank
  | c :: m, a => if c.1 = a then c.2 else Memory.read m a

/-- Write one byte, keeping the canonical form: writing what an unlisted address reads as removes the entry. -/
def Memory.write : Memory → Nat → Byte → Memory
  | [], a, b => if b = Memory.blank then [] else [(a, b)]
  | c :: m, a, b =>
    if a < c.1 then (if b = Memory.blank then c :: m else (a, b) :: c :: m)
    else if a = c.1 then (if b = Memory.blank then m else (a, b) :: m)
    else c :: Memory.write m a b

/-- The canonical form: addresses strictly rising, no entry equal to what an unlisted address reads as. -/
abbrev Memory.wf (m : Memory) : Prop :=
  m.Pairwise (fun c d => c.1 < d.1) ∧ ∀ c ∈ m, c.2 ≠ Memory.blank

/-- Write bytes at `a`, `a + 1`, … in index order (R53). -/
def Memory.writeBytes : Memory → Nat → List Byte → Memory
  | m, _, [] => m
  | m, a, b :: bs => Memory.writeBytes (Memory.write m a b) (a + 1) bs

/-- Read `n` bytes from `a` on, in index order (R53). -/
def Memory.readBytes (m : Memory) (a n : Nat) : List Byte := (List.range n).map fun k => Memory.read m (a + k)

/-- A buffer that holds these bytes from index 0 on. -/
def Memory.ofBytes (bs : List Byte) : Memory := Memory.writeBytes [] 0 bs

/-! ### Fields of received bytes (R87) -/

/-- Byte `k` of a received sequence. The transport returns as many bytes as were sent (R122), so no rule looks past
the end (log 16). -/
def rxByte (rx : List Byte) (k : Nat) : Byte := rx.getD k 0

/-- The status byte of a read-status exchange: `rx[1]`. -/
def rxStatus (rx : List Byte) : Byte := rxByte rx 1

/-- The data bytes of a read-data exchange: `rx[4 .. 4 + n)`. -/
def rxData (rx : List Byte) (n : Nat) : List Byte := (List.range n).map fun k => rxByte rx (Config.hdr + k)

/-! ### Frames -/

/-- The payload `TXD[0 .. LEN)` (R33, R53). -/
def payload (s : State) : List Byte := Memory.readBytes s.txd 0 s.len.toNat

/-- `|tx| <= PAGE_SIZE + 4` (R122). -/
def frameFits (c : Cfg) (tx : List Byte) : Bool := decide (tx.length - Config.hdr ≤ c.pageSize)

end Sys2Proof.Machine
end

