-- ==== Sys2Proof/Machine/Device.lean ====
section
/-! DEFINITION. The transport as an oracle (R122, R124, R130): laid-down answers, free answers, and the simple device
of 95_test_vectors.md 0.3. None of it is the sequencer's. -/

namespace Sys2Proof.Machine

/-- The first byte of a frame. -/
def firstByte (tx : List Byte) : Byte := tx.headD 0

/-- The address in a frame's header, big-endian (R52). -/
def frameAddr (tx : List Byte) : Addr := joinAddr (tx.getD 1 0) (tx.getD 2 0) (tx.getD 3 0)

/-- The device address of data byte `k` of a frame: `(A + k) mod 2^24` (95_test_vectors.md 0.3). -/
def arrayAddr (tx : List Byte) (k : Nat) : Nat := ((frameAddr tx).toNat + k) % 2 ^ 24

/-- The device reports busy. -/
def Device.isBusy (d : Device) : Bool := decide (0 < d.busyCnt) || d.busyForever

/-- The simple device's Status Register: latch in bit 1, busy in bit 0. -/
def Device.statusByte (d : Device) : Byte :=
  (if d.wel then 2 else 0) ||| (if d.isBusy then 1 else 0)

/-- The byte the simple device sends at position `k` of the exchange `tx` (R250). -/
def Device.sends (d : Device) (tx : List Byte) (k : Nat) : Byte :=
  if firstByte tx = opRdsr then (if k = 1 then d.statusByte else 0)
  else if firstByte tx = opRdid then
    (if k = 1 then d.ident.1 else if k = 2 then d.ident.2.1 else if k = 3 then d.ident.2.2 else 0)
  else if firstByte tx = opRd then
    (if decide (d.busyCnt = 0) && decide (4 ≤ k) then Memory.read d.mem (arrayAddr tx (k - 4)) else 0)
  else 0

/-- Program bytes at the frame's address on, wrapping at the end of the device space. -/
def programArray (tx : List Byte) : Memory → Nat → List Byte → Memory
  | m, _, [] => m
  | m, k, b :: bs => programArray tx (Memory.write m (arrayAddr tx k) b) (k + 1) bs

/-- Erase the 4096-byte sector that holds the address: every byte of it reads 0xFF, the unlisted value. -/
def eraseSector (tx : List Byte) (m : Memory) : Memory :=
  m.filter fun c => decide (c.1 / 4096 ≠ (frameAddr tx).toNat / 4096)

/-- A status read lets time pass: the busy count falls, and when a mutating command is done the latch clears. -/
def Device.afterStatusRead (d : Device) : Device :=
  if d.busyCnt = 0 then d
  else if d.busyCnt = 1 && d.mutating then { d with busyCnt := 0, wel := false, mutating := false }
  else { d with busyCnt := d.busyCnt - 1 }

/-- A mutating command is obeyed only with the latch set and the device ready (R247). -/
def Device.obeys (d : Device) : Bool := d.wel && decide (d.busyCnt = 0)

/-- The simple device's state after a completed exchange, but for `armed` and `seen`. -/
def Device.does (d : Device) (tx : List Byte) : Device :=
  if firstByte tx = opRdsr then d.afterStatusRead
  else if firstByte tx = opWren then
    (if decide (d.busyCnt = 0) && !d.busyForever && !d.noLatch then { d with wel := true } else d)
  else if firstByte tx = opWrdi then { d with wel := false }
  else if firstByte tx = opSe then
    (if d.obeys then { d with mem := eraseSector tx d.mem, busyCnt := d.bEr, mutating := true } else d)
  else if firstByte tx = opPp then
    (if d.obeys then
      { d with mem := programArray tx d.mem 0 (tx.drop 4), busyCnt := d.bPp, mutating := true }
    else d)
  else if firstByte tx = opRst then
    (if d.armed then { d with wel := false, mutating := false, busyCnt := d.bRst } else d)
  else d

/-- One exchange with the simple device. -/
def Device.exchange (d : Device) (tx : List Byte) : Option (List Byte) × Device :=
  if d.failAt = some (d.seen + 1) then (none, { d with seen := d.seen + 1 })
  else (some ((List.range tx.length).map (d.sends tx)),
    { d.does tx with seen := d.seen + 1, armed := decide (firstByte tx = opRsten) })

/-- What `Xchg(tx)` returns after the events `hist`, and the transport after it (R122, R130): failure, or `|tx|`
bytes. A laid-down answer that is too short goes on with free bytes, and what is too long in it is not received
(log 16). -/
def Transport.exchange (t : Transport) (hist : List Event) (tx : List Byte) : Option (List Byte) × Transport :=
  match t with
  | .oracle [] =>
    (if Config.oracleOk hist tx then some ((List.range tx.length).map (Config.oracleByte hist tx)) else none,
      .oracle [])
  | .oracle (none :: rest) => (none, .oracle rest)
  | .oracle (some bs :: rest) =>
    (some ((List.range tx.length).map fun k => bs.getD k (Config.oracleByte hist tx k)), .oracle rest)
  | .simple d => ((d.exchange tx).1, .simple (d.exchange tx).2)

end Sys2Proof.Machine
end

