-- ==== Sys2Proof/Machine/Ops.lean ====
section
/-! DEFINITION. The shared operations: the four transport requests (R120 to R123), entering a phase (R193, R194), the
start and the end of an operation (R175, R214), the transaction sub-machine (R193), and block reset (R240). -/

namespace Sys2Proof.Machine

/-- What a step answers. -/
abbrev Out := Host.Outcome State Fault Refusal

/-! ### The transport requests -/

/-- The request is made: it joins the trace (R10). -/
def logged (e : Event) (s : State) : State := { s with trace := s.trace ++ [e] }

/-- `Sel()` (R120), and the framer is at byte 0 (R27). `XP <- X_XCHG` (R193). -/
def selReq (s : State) : State := { logged .sel s with sel := true, idx := 0, xp := .xchg }

/-- Where the framer's index stands after an exchange: at the last byte, or, when it failed, anywhere in the frame
(R27, R124; log 7). -/
def idxAfter (hist : List Event) (tx : List Byte) : Option (List Byte) → BitVec 17
  | some _ => BitVec.ofNat 17 (tx.length - 1)
  | none => BitVec.ofNat 17 (Config.cutAt hist tx % tx.length)

/-- `Xchg(tx)` (R122): ask the transport, and record `ok` and `rx`. `XP <- X_DESEL`, whether it failed or not (R193). -/
def xchgReq (tx : List Byte) (s : State) : State :=
  { logged (.xchg tx (s.transport.exchange s.trace tx).1) s with
    answer := (s.transport.exchange s.trace tx).1
    transport := (s.transport.exchange s.trace tx).2
    idx := idxAfter s.trace tx (s.transport.exchange s.trace tx).1
    xp := .desel }

/-- `Desel()` (R121). `XP <- X_NONE` (R193). -/
def deselReq (s : State) : State := { logged .desel s with sel := false, xp := .none }

/-- `Delay(n)` (R123): an event, and no change of the sequencer's state. -/
def delayReq (n : Nat) (s : State) : State := logged (.delay n) s

/-! ### Phases -/

/-- The timeout a wait phase passes to `WaitReady` (R192). -/
def waitLimit (c : Cfg) : Main → Option Millis
  | .rstWait => some c.toReset
  | .weWait1 => some c.toWe
  | .weWait2 => some c.toWe
  | .erWait => some c.toErase
  | .ppWait => some c.toProg
  | .idle | .rstEn | .rstGap | .rstCmd | .rstSettle | .id | .weCmd | .weVerify | .erCmd | .ppCmd | .rdCheck
  | .rdCmd => none

/-- Go to a phase: on entry to a transaction `XP <- X_SEL` (R193), on entry to a wait
`TLIM <- T; POLLCNT <- 0; POLL <- P_READ` (R194), whose first poll is a transaction. -/
def enter (m : Main) (s : State) : State :=
  match waitLimit s.cfg m with
  | some t => { s with main := m, tlim := t, pollcnt := 0, poll := .read, xp := .sel }
  | none => { s with main := m, poll := .none, xp := if isDelay m then .none else .sel }

/-- `end(r)` of R192, the abort of R214 and the completion of R175, a step of its own (R191):
`RESULT <- r; DONE <- 1; STATE <- S_IDLE`. The open transaction's `Desel()` has been made by then, since a result is
only reported from it (R126). Nothing is saved and no request is made. The recorded answer is dropped: the spec gives
it no lifetime, and says that no buffer content survives an operation inside the block (R33); that it goes here is the
model's choice (DESIGN CHOICE, log 22). -/
def endOp (r : Result) (s : State) : State :=
  { s with
    result := r
    done := true
    main := .idle
    poll := .none
    xp := .none
    ending := none
    answer := none }

/-- A phase has come to `return r` (R214), or to `end(r)` in the table of R192: no activity is left, and the next step is the
end (R191). `POLL <- P_NONE` is R194's, `XP <- X_NONE` is R193's; `MAIN` still names the phase, and `DONE` is 0. -/
def endDue (r : Result) (s : State) : State := { s with poll := .none, xp := .none, ending := some r }

/-- The start of an operation (R175), accepted only in `S_IDLE` (D22): `OP` is latched, `DONE <- 0`, and the first
phase is entered. It is also the only thing that follows an abort (R222). -/
def startOp (op : BitVec 3) (first : State → State) (s : State) : Out :=
  if isIdle s then .next (first { s with op := op, done := false }) else .refused .startWhileBusy

/-- The length check of `pageProgram` and `read`, their first step (R216, R219), before the phase `m`. When it rejects,
the end is due at once. An operation is then in flight with `DONE = 0`, so `STATE` is not `S_IDLE` (R22, R31, R197(3));
that `MAIN` names the phase behind the check, whose activity never begins, is the model's choice (log 1). -/
def lengthChecked (r : Result) (m : Main) (s : State) : State :=
  if tooLong s.cfg s.len then endDue r { s with main := m } else enter m s

/-! ### Transactions -/

/-- One step of the transaction sub-machine for the frame `tx` (R193), in the phase that emits it. The report of
`X_DESEL` goes to the activity that entered, in the step of the `Desel()`, and its outcome is the next phase or an end
that is due (R192). -/
def command (here : Bool) (tx : List Byte) (report : Option (List Byte) → State → State) (s : State) : Out :=
  if !here then .refused .commandOutOfPhase
  else if s.linkHung then .fault .transportNeverReturns
  else if !frameFits s.cfg tx then .fault .frameTooLong
  else match s.xp with
    | .none => .fault .illFormedPhase
    | .sel => .next (selReq s)
    | .xchg => .next (xchgReq tx s)
    | .desel => .next (report s.answer (deselReq s))

/-- The report of a transaction whose failure makes `end(TransportError)` due (R213), and whose success goes on with the
bytes received. -/
def orTransportError (go : List Byte → State → State) : Option (List Byte) → State → State
  | none, s => endDue .transportError s
  | some rx, s => go rx s

/-- A step that is a `Delay(n)` request (R123) and goes on with `go`. -/
def delayStep (n : Nat) (go : State → State) (s : State) : Out :=
  if s.linkHung then .fault .transportNeverReturns else .next (go (delayReq n s))

/-! ### Block reset -/

/-- Block reset (R240 to R242): the sequencer's elements are those of `State.reset`. What is not the sequencer's stays:
the configuration, the host's buffers and requests, the transport. No request is made. The mark in the trace says that
the select line fell (log 11). -/
def blockReset (s : State) : State :=
  { State.reset with
    cfg := s.cfg
    txd := s.txd
    rxd := s.rxd
    trace := s.trace ++ [.blockReset]
    transport := s.transport
    port := s.port
    linkHung := s.linkHung }

end Sys2Proof.Machine
end

