-- ==== Sys2Proof/Machine/Operation.lean ====
section
/-! DEFINITION. The six operations a host can start (R88). Executing one is its start (R175; R192, row `S_IDLE`): the
steps that follow run its phases, as Phase.lean says, until `end(r)`. Procedure.lean has the same operations as the
normative procedures of 41_status_write_enable.md and 42_operations.md. -/

namespace Sys2Proof.Machine

/-- `reset` (R163). -/
def execReset (s : State) : Out := startOp hostReset (enter .rstEn) s

/-- `readJedecID` (R164). -/
def execReadJedecID (s : State) : Out := startOp hostReadJedecID (enter .id) s

/-- `writeEnable` (R173). -/
def execWriteEnable (s : State) : Out := startOp hostWriteEnable (enter .weWait1) s

/-- `sectorErase` (R167): `ADDR` is latched as given (R55). -/
def execSectorErase (addr : Addr) (s : State) : Out :=
  startOp hostSectorErase (fun t => enter .weWait1 { t with addr := addr }) s

/-- `pageProgram` (R169): the length check comes before the gate. -/
def execPageProgram (addr : Addr) (len : Len) (s : State) : Out :=
  startOp hostPageProgram
    (fun t => lengthChecked .programmingFailed .weWait1 { t with addr := addr, len := len }) s

/-- `read` (R172): the length check comes before the busy check. -/
def execRead (addr : Addr) (len : Len) (s : State) : Out :=
  startOp hostRead (fun t => lengthChecked .readFailed .rdCheck { t with addr := addr, len := len }) s

end Sys2Proof.Machine
end

