-- ==== Sys2Proof/Machine/Wire.lean ====
section
/-! DEFINITION. The wire commands (R84): each is one transaction in the phase that emits it, and the outcome that
R192 gives that phase: the next phase, or an `end(r)` that is due, which is a step of its own. A command takes three
steps, one transport request each (R191). -/

namespace Sys2Proof.Machine

/-- `RSTEN` (R161), in `S_RST_EN`: ok, go `S_RST_GAP`. -/
def execRsten (s : State) : Out :=
  command (atPhase .rstEn s) (frameBare opRsten) (orTransportError fun _ => enter .rstGap) s

/-- `RST` (R162), in `S_RST_CMD`: ok, go `S_RST_SETTLE`. -/
def execRst (s : State) : Out :=
  command (atPhase .rstCmd s) (frameBare opRst) (orTransportError fun _ => enter .rstSettle) s

/-- `ID[0] <- rx[1]; ID[1] <- rx[2]; ID[2] <- rx[3]`, and `end(Success)` is due (R164). -/
def identified (rx : List Byte) (s : State) : State :=
  endDue .success { s with id0 := rxByte rx 1, id1 := rxByte rx 2, id2 := rxByte rx 3 }

/-- `RDID` (R165), in `S_ID`. -/
def execRdid (s : State) : Out :=
  command (atPhase .id s) (frameId s.cfg) (orTransportError identified) s

/-- What a wait phase does with the result of its `WaitReady` (R192). -/
def waitReported (r : Result) (s : State) : State :=
  if r = .success then
    match s.main with
    | .weWait1 => enter .weCmd s
    | .weWait2 => enter .weVerify s
    | .idle | .rstEn | .rstGap | .rstCmd | .rstSettle | .rstWait | .id | .weCmd | .weVerify | .erCmd | .erWait
    | .ppCmd | .ppWait | .rdCheck | .rdCmd => endDue .success s
  else endDue r s

/-- The tests of one poll, in the order of R194: ready, then expired, else one more delay. -/
def polled (s : State) : State :=
  if !busy s.status then waitReported .success s
  else if expired s then waitReported .timeout s
  else { s with poll := .delay, xp := .none }

/-- Step 4 of the handshake (R147), and the continuation on `OP` (R192, R195). -/
def verified (s : State) : State :=
  if !wel s.cfg s.status then endDue .writeEnableFailed s
  else if s.op = hostSectorErase then enter .erCmd s
  else if s.op = hostPageProgram then enter .ppCmd s
  else endDue .success s

/-- The one busy check of `read` (R172). -/
def checked (s : State) : State :=
  if busy s.status then endDue .busy s else enter .rdCmd s

/-- `STATUS <- rx[1]` (R142), then what the phase that read it does. -/
def statusRead (rx : List Byte) (s : State) : State :=
  match s.main with
  | .weVerify => verified { s with status := rxStatus rx }
  | .rdCheck => checked { s with status := rxStatus rx }
  | .idle | .rstEn | .rstGap | .rstCmd | .rstSettle | .rstWait | .id | .weWait1 | .weCmd | .weWait2 | .erCmd
  | .erWait | .ppCmd | .ppWait | .rdCmd => polled { s with status := rxStatus rx }

/-- `RDSR` (R141, R142), in the wait phases, `S_WE_VERIFY` and `S_RD_CHECK`. -/
def execRdsr (s : State) : Out :=
  command (readsStatus s) (frameStatus s.cfg) (orTransportError statusRead) s

/-- `WREN` (R146), in `S_WE_CMD`: ok, go `S_WE_WAIT2`. -/
def execWren (s : State) : Out :=
  command (atPhase .weCmd s) (frameBare opWren) (orTransportError fun _ => enter .weWait2) s

/-- `SE` (R166), in `S_ER_CMD`: ok, go `S_ER_WAIT`. -/
def execSe (addr : Addr) (s : State) : Out :=
  command (atPhase .erCmd s) (frameErase addr) (orTransportError fun _ => enter .erWait) s

/-- `PP` (R168), in `S_PP_CMD`: ok, go `S_PP_WAIT`. -/
def execPp (addr : Addr) (data : List Byte) (s : State) : Out :=
  command (atPhase .ppCmd s) (frameProgram addr data) (orTransportError fun _ => enter .ppWait) s

/-- `RXD[i] <- rx[4 + i]` for `0 <= i < n`, and `end(Success)` is due (R172). -/
def dataRead (n : Nat) (rx : List Byte) (s : State) : State :=
  endDue .success { s with rxd := Memory.writeBytes s.rxd 0 (rxData rx n) }

/-- `RD` (R171), in `S_RD_CMD`. -/
def execRd (addr : Addr) (n : Len) (s : State) : Out :=
  command (atPhase .rdCmd s) (frameRead s.cfg addr n.toNat) (orTransportError (dataRead n.toNat)) s

/-- `WRSR` (R96): no frame, no operand, no semantics, never emitted. -/
def execWrsr (_s : State) : Out := .refused .writeStatusNeverEmitted

/-- `WRDI` (R97): as `WRSR`. -/
def execWrdi (_s : State) : Out := .refused .writeDisableNeverEmitted

/-- `RSTFF` (R98; C1): a named constant the sequencer never sends. -/
def execRstff (_s : State) : Out := .refused .resetFFNeverEmitted

end Sys2Proof.Machine
end

