-- ==== Sys2Proof/Machine/Dispatch.lean ====
section
/-! DEFINITION. The meaning of every instruction, one arm each. -/

namespace Sys2Proof.Machine

def exec (i : Instr) (s : State) : Host.Outcome State Fault Refusal :=
  match i with
  | .rsten => Sys2Proof.Machine.execRsten s
  | .rst => Sys2Proof.Machine.execRst s
  | .rdid => Sys2Proof.Machine.execRdid s
  | .rdsr => Sys2Proof.Machine.execRdsr s
  | .wrsr => Sys2Proof.Machine.execWrsr s
  | .wren => Sys2Proof.Machine.execWren s
  | .wrdi => Sys2Proof.Machine.execWrdi s
  | .se addr => Sys2Proof.Machine.execSe addr s
  | .pp addr data => Sys2Proof.Machine.execPp addr data s
  | .rd addr n => Sys2Proof.Machine.execRd addr n s
  | .rstff => Sys2Proof.Machine.execRstff s
  | .reset => Sys2Proof.Machine.execReset s
  | .readJedecID => Sys2Proof.Machine.execReadJedecID s
  | .writeEnable => Sys2Proof.Machine.execWriteEnable s
  | .sectorErase addr => Sys2Proof.Machine.execSectorErase addr s
  | .pageProgram addr len => Sys2Proof.Machine.execPageProgram addr len s
  | .read addr len => Sys2Proof.Machine.execRead addr len s

end Sys2Proof.Machine
end

