-- ==== Sys2Proof/Machine/Phase.lean ====
section
/-! DEFINITION. What the machine does next: the table of R192 with the poll sub-machine of R194. A phase either runs
an instruction (the wire command it emits, or the host's request in `S_IDLE`) or needs none. -/

namespace Sys2Proof.Machine

/-- The next thing to do. -/
inductive Activity where
  /-- run an instruction, in this state -/
  | run (i : Instr) (s : State)
  /-- no instruction: this is the outcome -/
  | settled (o : Out)

/-- The host's record is taken: it leaves the port, and its `TXD` is the buffer the framer reads (R33, R91; log 8). -/
def takeRequest (r : Request) (rest : List Request) (s : State) : State :=
  { s with port := rest, txd := Memory.ofBytes r.txd }

/-- `S_IDLE` waits for a start (R192). While there is none the sequencer does nothing (R228). A reserved host code is
refused by the block: no start, no request, no change of `DONE` or `RESULT` (R89; log 9). -/
def idleActivity (s : State) : Activity :=
  match s.port with
  | [] => .settled (.next s)
  | r :: rest =>
    match decode r.code with
    | .ok i => .run i (takeRequest r rest s)
    | .error (.reservedOp _) => .settled (.next { s with port := rest })
    | .error _ => .settled (.refused .notARequest)

/-- `P_DELAY` of R194: `Delay(1)`, `POLLCNT <- POLLCNT + 1`, `POLL <- P_READ`. -/
def nextPoll (s : State) : State := { s with pollcnt := s.pollcnt + 1, poll := .read, xp := .sel }

/-- A wait phase: poll, or pace (R194). -/
def waitActivity (s : State) : Activity :=
  match s.poll with
  | .delay => .settled (delayStep Config.pollDelayMs nextPoll s)
  | .read => .run .rdsr s
  | .none => .run .rdsr s

/-- The activity of each phase (R192). -/
def phaseActivity (s : State) : Activity :=
  match s.main with
  | .idle => idleActivity s
  | .rstEn => .run .rsten s
  | .rstGap => .settled (delayStep Config.rstGapMs (enter .rstCmd) s)
  | .rstCmd => .run .rst s
  | .rstSettle => .settled (delayStep Config.rstSettleMs (enter .rstWait) s)
  | .rstWait => waitActivity s
  | .id => .run .rdid s
  | .weWait1 => waitActivity s
  | .weCmd => .run .wren s
  | .weWait2 => waitActivity s
  | .weVerify => .run .rdsr s
  | .erCmd => .run (.se s.addr) s
  | .erWait => waitActivity s
  | .ppCmd => .run (.pp s.addr (payload s)) s
  | .ppWait => waitActivity s
  | .rdCheck => .run .rdsr s
  | .rdCmd => .run (.rd s.addr s.len) s

/-- Block reset comes before all else (R242); a `STATE` that R190 does not allow stops the machine (log 17); an end that
is due is a step of its own, and makes no request (R191, R214). -/
def activity (s : State) : Activity :=
  if s.resetLine then .settled (.next (blockReset s))
  else if !phaseOk s then .settled (.fault .illFormedPhase)
  else match s.ending with
    | some r => .settled (.next (endOp r s))
    | none => phaseActivity s

/-! ### Placing an instruction where the next step runs it -/

/-- The machine idle, with this code first at the port. -/
def atPort (c : Code) (s : State) : State :=
  { s with
    main := .idle, poll := .none, xp := .none, sel := false, ending := none
    port := ⟨c, []⟩ :: s.port
    resetLine := false }

/-- The machine at the start of a phase that runs its own transaction. -/
def atCommand (m : Main) (op : BitVec 3) (s : State) : State :=
  { s with
    main := m, poll := .none, xp := .sel, sel := false, ending := none
    op := op
    done := false
    resetLine := false }

/-- The machine just before the instruction: a host operation at the port, a wire command in the phase that emits it
with its operands latched (log 15). The three commands no phase emits go to the port, where they stop by name. -/
def placed (c : Code) (s : State) : State :=
  match decode c with
  | .error _ => atPort c s
  | .ok i =>
    match i with
    | .rsten => atCommand .rstEn hostReset s
    | .rst => atCommand .rstCmd hostReset s
    | .rdid => atCommand .id hostReadJedecID s
    | .rdsr => atCommand .rdCheck hostRead s
    | .wrsr => atPort c s
    | .wren => atCommand .weCmd hostWriteEnable s
    | .wrdi => atPort c s
    | .se addr => atCommand .erCmd hostSectorErase { s with addr := addr }
    | .pp addr data =>
      atCommand .ppCmd hostPageProgram
        { s with addr := addr, len := BitVec.ofNat 16 data.length, txd := Memory.ofBytes data }
    | .rd addr n => atCommand .rdCmd hostRead { s with addr := addr, len := n }
    | .rstff => atPort c s
    | .reset => atPort c s
    | .readJedecID => atPort c s
    | .writeEnable => atPort c s
    | .sectorErase _ => atPort c s
    | .pageProgram _ _ => atPort c s
    | .read _ _ => atPort c s

end Sys2Proof.Machine
end

