-- ==== Sys2Proof/Machine/Step.lean ====
section
/-! DEFINITION. One step of the machine (R191): the start of an operation; one transport request together with its
answer; or the end of an operation. -/

namespace Sys2Proof.Machine

/-- One step. -/
def step (s : State) : Host.Outcome State Fault Refusal :=
  match activity s with
  | .run i t => exec i t
  | .settled o => o

/-- The state whose next step runs the instruction of this word, numbered as spec/opcode_table.json numbers it. -/
def State.withFetchWord (s : State) (nbits w : Nat) : State := placed (tableCode nbits w) s

end Sys2Proof.Machine
end

