-- ==== Sys2Proof/Machine/Outputs.lean ====
section
/-! DEFINITION. What the host may read, and when it is valid (R30 to R33; R252(4)), the numeric codes of a result
(R90), and the identification string (R95). -/

namespace Sys2Proof.Machine

/-- The codes of R90. -/
def Result.code : Result → BitVec 3
  | .success => 0
  | .busy => 1
  | .writeEnableFailed => 2
  | .eraseFailed => 3
  | .programmingFailed => 4
  | .readFailed => 5
  | .timeout => 6
  | .transportError => 7

/-- `RESULT` as the host reads it: valid only while `DONE = 1` (R30). -/
def resultOut (s : State) : Option (BitVec 3) := if s.done then some s.result.code else none

/-- The last operation ended with `Success` and its `OP` was this. -/
def succeeded (op : BitVec 3) (s : State) : Bool :=
  s.done && decide (s.result = .success) && decide (s.op = op)

/-- `ID[0..2]` as the host reads it: valid only after a `readJedecID` that ended with `Success` (R32; U4). -/
def idOut (s : State) : Option (Byte × Byte × Byte) :=
  if succeeded hostReadJedecID s then some (s.id0, s.id1, s.id2) else none

/-- `RXD[0 .. LEN)` as the host reads it: valid only after a `read` that ended with `Success` (R33; U4). -/
def rxdOut (s : State) : Option (List Byte) :=
  if succeeded hostRead s then some (Memory.readBytes s.rxd 0 s.len.toNat) else none

/-- One upper-case hexadecimal digit. -/
def hexDigit (n : BitVec 4) : Char :=
  ['0', '1', '2', '3', '4', '5', '6', '7', '8', '9', 'A', 'B', 'C', 'D', 'E', 'F'].getD n.toNat '0'

/-- `hex2` of R95: two digits, high nibble first, zero-padded. -/
def hex2 (b : Byte) : List Char := [hexDigit (b.extractLsb' 4 4), hexDigit (b.extractLsb' 0 4)]

/-- `IDSTR` of R95: eight characters. -/
def idStr (i : Byte × Byte × Byte) : List Char := hex2 i.1 ++ [' '] ++ hex2 i.2.1 ++ [' '] ++ hex2 i.2.2

end Sys2Proof.Machine
end

