-- ==== Sys2Proof/Machine/Procedure.lean ====
section
/-! DEFINITION. The normative procedures of 40, 41 and 42 (R22: "The procedural rules are normative"), as functions of
the state. `step` runs the phase machine of 43, which is "defined to produce the same traces, results and outputs". The
procedures assume that every transport request returns (U9). -/

namespace Sys2Proof.Machine.Procedure

/-- `Xact(tx) -> (ok, rx)` (R126): `none` is `ok = false`. -/
def xact (tx : List Byte) (s : State) : Option (List Byte) × State :=
  let t := deselReq (xchgReq tx (selReq s))
  (t.answer, t)

/-- `ReadStatus() -> (ok, s)` (R142). -/
def readStatus (s : State) : Option Byte × State :=
  match xact (frameStatus s.cfg) s with
  | (none, t) => (none, t)
  | (some rx, t) => (some (rxStatus rx), { t with status := rxStatus rx })

/-- The loop of `WaitReady` (R144). The first argument bounds the number of polls: the loop ends by its own test of
`POLLCNT` within `TLIM + 1` polls (R145), so the bound is never what ends it. -/
def pollLoop : Nat → State → Result × State
  | 0, s => (.timeout, s)
  | polls + 1, s =>
    match readStatus s with
    | (none, t) => (.transportError, t)
    | (some st, t) =>
      if !busy st then (.success, t)
      else if expired t then (.timeout, t)
      else
        let u := delayReq Config.pollDelayMs t
        pollLoop polls { u with pollcnt := u.pollcnt + 1 }

/-- `WaitReady(T) -> Result` (R144). -/
def waitReady (t : Millis) (s : State) : Result × State :=
  pollLoop (t.toNat + 1) { s with tlim := t, pollcnt := 0 }

/-- Step 4 of `WriteEnable` (R147). -/
def verifyLatch (s : State) : Result × State :=
  match readStatus s with
  | (none, t) => (.transportError, t)
  | (some st, t) => if !wel t.cfg st then (.writeEnableFailed, t) else (.success, t)

/-- `WriteEnable() -> Result` (R147). -/
def writeEnable (s : State) : Result × State :=
  match waitReady s.cfg.toWe s with
  | (.success, t) =>
    match xact (frameBare opWren) t with
    | (none, u) => (.transportError, u)
    | (some _, u) =>
      match waitReady u.cfg.toWe u with
      | (.success, v) => verifyLatch v
      | (r, v) => (r, v)
  | (r, t) => (r, t)

/-- `reset` (R163). -/
def reset (s : State) : Result × State :=
  match xact (frameBare opRsten) s with
  | (none, t) => (.transportError, t)
  | (some _, t) =>
    match xact (frameBare opRst) (delayReq Config.rstGapMs t) with
    | (none, u) => (.transportError, u)
    | (some _, u) => waitReady u.cfg.toReset (delayReq Config.rstSettleMs u)

/-- `readJedecID` (R164). -/
def readJedecID (s : State) : Result × State :=
  match xact (frameId s.cfg) s with
  | (none, t) => (.transportError, t)
  | (some rx, t) => (.success, { t with id0 := rxByte rx 1, id1 := rxByte rx 2, id2 := rxByte rx 3 })

/-- A mutating frame and the wait after it (R167, R169). -/
def mutate (tx : List Byte) (limit : Millis) (s : State) : Result × State :=
  match xact tx s with
  | (none, t) => (.transportError, t)
  | (some _, t) => waitReady limit t

/-- `sectorErase` (R167). -/
def sectorErase (s : State) : Result × State :=
  match writeEnable s with
  | (.success, t) => mutate (frameErase t.addr) t.cfg.toErase t
  | (r, t) => (r, t)

/-- `pageProgram` (R169). -/
def pageProgram (s : State) : Result × State :=
  if tooLong s.cfg s.len then (.programmingFailed, s)
  else
    match writeEnable s with
    | (.success, t) => mutate (frameProgram t.addr (payload t)) t.cfg.toProg t
    | (r, t) => (r, t)

/-- `read` (R172). -/
def read (s : State) : Result × State :=
  if tooLong s.cfg s.len then (.readFailed, s)
  else
    match readStatus s with
    | (none, t) => (.transportError, t)
    | (some st, t) =>
      if busy st then (.busy, t)
      else
        match xact (frameRead t.cfg t.addr t.len.toNat) t with
        | (none, u) => (.transportError, u)
        | (some rx, u) => (.success, { u with rxd := Memory.writeBytes u.rxd 0 (rxData rx u.len.toNat) })

/-- An operation from its start to its end (R175): latch, run the procedure, `end(r)`. A wire command is no operation:
`none`. -/
def operation (i : Instr) (s : State) : Option State :=
  let go (op : BitVec 3) (run : State → Result × State) (t : State) : Option State :=
    let e := run { t with op := op, done := false }
    some (endOp e.1 e.2)
  match i with
  | .reset => go hostReset reset s
  | .readJedecID => go hostReadJedecID readJedecID s
  | .writeEnable => go hostWriteEnable writeEnable s
  | .sectorErase a => go hostSectorErase sectorErase { s with addr := a }
  | .pageProgram a n => go hostPageProgram pageProgram { s with addr := a, len := n }
  | .read a n => go hostRead read { s with addr := a, len := n }
  | .rsten | .rst | .rdid | .rdsr | .wrsr | .wren | .wrdi | .se _ | .pp _ _ | .rd _ _ | .rstff => none

end Sys2Proof.Machine.Procedure
end

