-- ==== Sys2Proof/Safety.lean ====
section
/-! DEFINITION. The words claims are stated in: which command a phase emits, the invariant of the machine, the two
checkers of a trace, which result an operation can return, and runs of several steps. -/

namespace Sys2Proof.Machine

/-! ### Commands and phases -/

/-- The bytes a wire command puts on the link (R81); a host operation puts none. -/
def frameOf (c : Cfg) : Instr → List Byte
  | .rsten => [0x66]
  | .rst => [0x99]
  | .rdid => [0x9F, c.filler, c.filler, c.filler]
  | .rdsr => [0x05, c.filler]
  | .wrsr => []
  | .wren => [0x06]
  | .wrdi => []
  | .se a => [0x20, a.extractLsb' 16 8, a.extractLsb' 8 8, a.extractLsb' 0 8]
  | .pp a data => [0x02, a.extractLsb' 16 8, a.extractLsb' 8 8, a.extractLsb' 0 8] ++ data
  | .rd a n => [0x03, a.extractLsb' 16 8, a.extractLsb' 8 8, a.extractLsb' 0 8] ++ List.replicate n.toNat c.filler
  | .rstff => []
  | .reset => []
  | .readJedecID => []
  | .writeEnable => []
  | .sectorErase _ => []
  | .pageProgram _ _ => []
  | .read _ _ => []

/-- The commands an operation emits (R92): the eight of R84 that are marked as emitted. -/
def isEmitted : Instr → Bool
  | .rsten | .rst | .rdid | .rdsr | .wren | .se _ | .pp _ _ | .rd _ _ => true
  | .wrsr | .wrdi | .rstff => false
  | .reset | .readJedecID | .writeEnable | .sectorErase _ | .pageProgram _ _ | .read _ _ => false

/-- The operations a host can start (R88). -/
def isOperation : Instr → Bool
  | .reset | .readJedecID | .writeEnable | .sectorErase _ | .pageProgram _ _ | .read _ _ => true
  | .rsten | .rst | .rdid | .rdsr | .wrsr | .wren | .wrdi | .se _ | .pp _ _ | .rd _ _ | .rstff => false

/-- The phase that emits the command (R192): for read-status, a wait that is polling, the verify step of the three
operations with a handshake, or the check of `read`. No phase emits anything once the end of its operation is due. -/
def inItsPhase (i : Instr) (s : State) : Prop :=
  s.ending = none ∧ match i with
  | .rsten => s.main = .rstEn ∧ s.poll = .none
  | .rst => s.main = .rstCmd ∧ s.poll = .none
  | .rdid => s.main = .id ∧ s.poll = .none
  | .rdsr =>
    (isWait s.main ∧ s.poll = .read) ∨
      (s.main = .weVerify ∧ s.poll = .none ∧ (s.op = 2 ∨ s.op = 3 ∨ s.op = 4)) ∨
      (s.main = .rdCheck ∧ s.poll = .none)
  | .wren => s.main = .weCmd ∧ s.poll = .none
  | .se _ => s.main = .erCmd ∧ s.poll = .none
  | .pp _ _ => s.main = .ppCmd ∧ s.poll = .none
  | .rd _ _ => s.main = .rdCmd ∧ s.poll = .none
  | .wrsr | .wrdi | .rstff => False
  | .reset | .readJedecID | .writeEnable | .sectorErase _ | .pageProgram _ _ | .read _ _ => False

/-- The command the machine's phase is running, with the latched operands (R192); none when the end is due. -/
def phaseCommand (s : State) : Option Instr :=
  if s.ending.isSome then none else
  match s.main with
  | .rstEn => some .rsten
  | .rstCmd => some .rst
  | .id => some .rdid
  | .weCmd => some .wren
  | .weVerify => some .rdsr
  | .rdCheck => some .rdsr
  | .erCmd => some (.se s.addr)
  | .ppCmd => some (.pp s.addr (Memory.readBytes s.txd 0 s.len.toNat))
  | .rdCmd => some (.rd s.addr s.len)
  | .rstWait | .weWait1 | .weWait2 | .erWait | .ppWait => if s.poll = .read then some .rdsr else none
  | .idle | .rstGap | .rstSettle => none

/-- Neither input of the outside world is asserted: no block reset, and the transport returns from its requests. -/
def Undisturbed (s : State) : Prop := s.resetLine = false ∧ s.linkHung = false

/-- A command can make its request: it is in its phase, the transport returns, and the frame is no longer than
`PAGE_SIZE + 4` bytes (R122). -/
def CanRun (i : Instr) (s : State) : Prop :=
  inItsPhase i s ∧ s.linkHung = false ∧ (frameOf s.cfg i).length ≤ s.cfg.pageSize + 4

/-! ### Checkers of a trace -/

/-- Where a trace stands in its bracket. -/
inductive Bracket where
  | closed | opened | exchanged
  deriving DecidableEq, Repr

/-- R127: `S`, one `X`, `D`, in this order; a `W` only outside. A block reset closes whatever is open (R242). -/
def Bracket.next : Bracket → Event → Option Bracket
  | .closed, .sel => some .opened
  | .opened, .xchg _ _ => some .exchanged
  | .exchanged, .desel => some .closed
  | .closed, .delay _ => some .closed
  | _, .blockReset => some .closed
  | _, _ => none

/-- The bracket after a trace; `none` when the trace breaks R127. -/
def bracketOf (tr : List Event) : Option Bracket := tr.foldl (fun b e => b.bind fun x => x.next e) (some .closed)

/-- Where the transaction sub-machine is, said by `XP` (R193). -/
def bracketAt : Xp → Bracket
  | .none => .closed
  | .sel => .closed
  | .xchg => .opened
  | .desel => .exchanged

/-- The write-enable gate seen in a trace (R62, R174): `armed n` when the last write-enable was followed by `n` status
reads and nothing else but 1 ms delays; `broken` when a mutating frame went out without at least two of them. -/
inductive Gate where
  | shut | armed (reads : Nat) | broken
  deriving DecidableEq, Repr

/-- The mutating opcodes (R62). -/
def isMutating (tx : List Byte) : Bool := decide (firstByte tx = 0x20) || decide (firstByte tx = 0x02)

/-- The gate after an exchange. -/
def Gate.exchange (tx : List Byte) (ok : Bool) : Gate → Gate
  | .broken => .broken
  | .shut =>
    if isMutating tx then .broken else if decide (firstByte tx = 0x06) && ok then .armed 0 else .shut
  | .armed n =>
    if isMutating tx then (if 2 ≤ n then .shut else .broken)
    else if decide (firstByte tx = 0x06) && ok then .armed 0
    else if decide (firstByte tx = 0x05) && ok then .armed (n + 1)
    else .shut

/-- The gate after an event. A block reset ends the operation, and `broken` never mends. -/
def Gate.next (g : Gate) : Event → Gate
  | .sel => g
  | .desel => g
  | .delay ms => if decide (ms = 1) || decide (g = .broken) then g else .shut
  | .blockReset => if g = .broken then .broken else .shut
  | .xchg tx rx => g.exchange tx rx.isSome

/-- The gate after a trace. -/
def gateOf (tr : List Event) : Gate := tr.foldl Gate.next .shut

/-- The status reads the gate must have seen by now in the phases after write-enable, by phase, `XP` and whether the
last exchange completed. `none`: no claim. -/
def readsNeeded (m : Main) (x : Xp) (ok : Bool) : Option Nat :=
  match m with
  | .weWait2 => if x = .desel then (if ok then some 1 else none) else some 0
  | .weVerify => if x = .desel then (if ok then some 2 else none) else some 1
  | .erCmd | .ppCmd => if x = .desel then none else some 2
  | .idle | .rstEn | .rstGap | .rstCmd | .rstSettle | .rstWait | .id | .weWait1 | .weCmd | .erWait | .ppWait
  | .rdCheck | .rdCmd => none

/-- The status reads the gate must have seen in this state; no claim once the end is due. -/
def gateNeed (s : State) : Option Nat :=
  if s.ending.isSome then none else readsNeeded s.main s.xp s.answer.isSome

/-- The frames the sequencer may send (R86, R92): one of the eight opcodes, with the length its format gives it. -/
def frameLegal (c : Cfg) (tx : List Byte) : Prop :=
  (firstByte tx = 0x66 ∧ tx.length = 1) ∨ (firstByte tx = 0x99 ∧ tx.length = 1) ∨
  (firstByte tx = 0x06 ∧ tx.length = 1) ∨ (firstByte tx = 0x05 ∧ tx.length = 2) ∨
  (firstByte tx = 0x9F ∧ tx.length = 4) ∨ (firstByte tx = 0x20 ∧ tx.length = 4) ∨
  (firstByte tx = 0x02 ∧ 4 ≤ tx.length ∧ tx.length ≤ c.pageSize + 4) ∨
  (firstByte tx = 0x03 ∧ 4 ≤ tx.length ∧ tx.length ≤ c.pageSize + 4)

/-- What an event of a trace may be: a legal frame answered by as many bytes (R122), or a delay of 1 or 2 ms (R123). -/
def eventLegal (c : Cfg) : Event → Prop
  | .sel => True
  | .desel => True
  | .blockReset => True
  | .delay ms => ms = 1 ∨ ms = 2
  | .xchg tx rx => frameLegal c tx ∧ ∀ r, rx = some r → r.length = tx.length

/-! ### The invariant -/

/-- The operations that have a phase (R192). -/
def phaseOf (op : BitVec 3) : Main → Prop
  | .idle => True
  | .rstEn | .rstGap | .rstCmd | .rstSettle | .rstWait => op = 0
  | .id => op = 1
  | .weWait1 | .weCmd | .weWait2 | .weVerify => op = 2 ∨ op = 3 ∨ op = 4
  | .erCmd | .erWait => op = 3
  | .ppCmd | .ppWait => op = 4
  | .rdCheck | .rdCmd => op = 5

/-- The matrix of R220: the results each operation can return. -/
def canReturn (op : BitVec 3) : Result → Prop
  | .success => op.toNat ≤ 5
  | .busy => op = 5
  | .writeEnableFailed => op = 2 ∨ op = 3 ∨ op = 4
  | .eraseFailed => False
  | .programmingFailed => op = 4
  | .readFailed => op = 5
  | .timeout => op = 0 ∨ op = 2 ∨ op = 3 ∨ op = 4
  | .transportError => op.toNat ≤ 5

/-- The phases that can end with each result (the table of R192). The two rejections end in the phase behind the length
check, whose activity has not begun (log 1). -/
def endsWith (m : Main) : Result → Prop
  | .success => m = .rstWait ∨ m = .id ∨ m = .weVerify ∨ m = .erWait ∨ m = .ppWait ∨ m = .rdCmd
  | .busy => m = .rdCheck
  | .writeEnableFailed => m = .weVerify
  | .eraseFailed => False
  | .programmingFailed => m = .weWait1
  | .readFailed => m = .rdCheck
  | .timeout => isWait m = true
  | .transportError => m ≠ .idle

/-- The array of the simple device, when the transport is that device. -/
def Transport.array : Transport → Memory
  | .oracle _ => []
  | .simple d => d.mem

/-- What holds in every state a run reaches (R23, R28, R39, R127, R190, R197, R216, R220). -/
structure Invariant (s : State) : Prop where
  /-- the constraints of R7 -/
  cfg : s.cfg.ok = true
  /-- R190, R197(2) -/
  phase : phaseOk s = true
  /-- R23, R197(1): `SEL = 1` exactly in `X_XCHG` and `X_DESEL` -/
  select : s.sel = (decide (s.xp = .xchg) || decide (s.xp = .desel))
  /-- R197(3): `DONE = 0` while an operation is in flight -/
  running : s.main ≠ .idle → s.done = false
  /-- R197(3): idle with `DONE = 0` is the state after block reset, with no request made since -/
  fresh : s.main = .idle → s.done = false → s.trace = [] ∨ s.trace.getLast? = some .blockReset
  /-- the phase belongs to the latched operation -/
  operation : phaseOf s.op s.main
  /-- R220 -/
  returned : s.done = true → canReturn s.op s.result
  /-- R192, R220: an end that is due is one its phase and its operation can come to -/
  due : ∀ r, s.ending = some r → endsWith s.main r ∧ canReturn s.op r
  /-- between operations no exchange is recorded (log 22) -/
  emptied : s.main = .idle → s.answer = none
  /-- R28: the wait's own limit, and `POLLCNT` never above it, strictly below before a delay -/
  limit : ∀ t, waitLimit s.cfg s.main = some t → s.poll ≠ .none →
    s.tlim = t ∧ s.pollcnt ≤ s.tlim ∧ (s.poll = .delay → s.pollcnt < s.tlim)
  /-- R197(5): `LEN <= PAGE_SIZE` from the length check on, unless it has rejected -/
  length : s.main ≠ .idle → s.op = 4 ∨ s.op = 5 →
    s.len.toNat ≤ s.cfg.pageSize ∨ s.ending = some .programmingFailed ∨ s.ending = some .readFailed
  /-- R197(4): the latch was seen set before a mutating command -/
  latch : s.main = .erCmd ∨ s.main = .ppCmd → wel s.cfg s.status = true
  /-- R127 -/
  bracket : bracketOf s.trace = some (bracketAt s.xp)
  /-- R62, R174 -/
  gate : gateOf s.trace ≠ .broken ∧ ∀ k, gateNeed s = some k → ∃ n, k ≤ n ∧ gateOf s.trace = .armed n
  /-- R86, R92, R122, R123 -/
  events : ∀ e ∈ s.trace, eventLegal s.cfg e
  /-- the recorded answer is the last exchange's, whose frame is the phase's -/
  recorded : s.xp = .desel → ∃ i, phaseCommand s = some i ∧
    s.trace.getLast? = some (.xchg (frameOf s.cfg i) s.answer)
  /-- the byte memories keep their canonical form -/
  memory : s.txd.wf ∧ s.rxd.wf ∧ s.transport.array.wf

/-! ### Runs -/

/-- `n` steps, stopping at the first fault or refusal. -/
def steps : Nat → State → Out
  | 0, s => .next s
  | n + 1, s =>
    match step s with
    | .next t => steps n t
    | .fault r => .fault r
    | .refused r => .refused r

/-- A bound on the steps of one operation after its start (R196): three requests for each of at most `T + 1` polls of
a wait and one for each of its `T` delays, twice for the gate and once for the final wait, the other frames, and the
end. -/
def stepBound (c : Cfg) : Nat :=
  8 * c.toWe.toNat + 4 * max c.toReset.toNat (max c.toErase.toNat c.toProg.toNat) + 19

/-- The number of events of a kind in a trace. -/
def countXchg (tr : List Event) : Nat := tr.countP fun e => match e with | .xchg _ _ => true | _ => false

/-- Two states with the same configuration, buffers, history and environment, whatever the sequencer's own registers
hold. -/
def SameSurroundings (s t : State) : Prop :=
  s.cfg = t.cfg ∧ s.txd = t.txd ∧ s.trace = t.trace ∧ s.transport = t.transport ∧ s.port = t.port ∧
    s.resetLine = t.resetLine ∧ s.linkHung = t.linkHung

end Sys2Proof.Machine
end

