-- ==== Sys2Proof/Certificates/Slice0/Obligations.lean ====
section
/-! DEFINITION. The statements for the provers, from the spec's rules. Witnesses that their hypotheses can be met stand
in Sys2Proof/Tests/Slice0.lean. -/

open Sys2Proof Sys2Proof.Machine

/-! ## Reset -/

/-- 70_reset_and_hazards.md section 1: after block reset `STATE = S_IDLE`, `SEL = 0`, `DONE = 0`, and block reset itself
makes no transport request (the spec's decision D25). -/
def Obligations.BlockResetLeavesAnIdleSequencer : Prop :=
  State.reset.main = .idle ∧ State.reset.poll = .none ∧ State.reset.xp = .none ∧
    State.reset.sel = false ∧ State.reset.done = false ∧ State.reset.trace = []

/-! ## Encodings -/

/-- R82, whole: the address bytes of every frame that carries one, in order, with no shift, scaling or sign; and no frame
has any other immediate: besides the opcode, the address and the payload there are only fillers. -/
def Obligations.AddressBytesAreBigEndian : Prop :=
  ∀ (c : Cfg) (a : Addr) (data : List Byte) (n : Len),
    encode c (.se a) = .frame [0x20, a.extractLsb' 16 8, a.extractLsb' 8 8, a.extractLsb' 0 8] ∧
    encode c (.pp a data) = .frame ([0x02, a.extractLsb' 16 8, a.extractLsb' 8 8, a.extractLsb' 0 8] ++ data) ∧
    encode c (.rd a n) = .frame ([0x03, a.extractLsb' 16 8, a.extractLsb' 8 8, a.extractLsb' 0 8] ++
      List.replicate n.toNat c.filler) ∧
    encode c .rsten = .frame [0x66] ∧ encode c .rst = .frame [0x99] ∧ encode c .wren = .frame [0x06] ∧
    encode c .rdsr = .frame [0x05, c.filler] ∧ encode c .rdid = .frame [0x9F, c.filler, c.filler, c.filler] ∧
    a.toNat = (a.extractLsb' 16 8).toNat * 65536 + (a.extractLsb' 8 8).toNat * 256 + (a.extractLsb' 0 8).toNat ∧
    addrBytes 0x012345 = [0x01, 0x23, 0x45]

/-- 30_encoding.md section 1, frame length: by opcode, and for 0x02 and 0x03 by the length of the payload. A well-formed
command's frame is at most `PAGE_SIZE + 4` bytes, which fits in `LEN_W + 1` bits. -/
def Obligations.FrameLengthFollowsTheOpcode : Prop :=
  ∀ (c : Cfg) (a : Addr) (data : List Byte) (n : Len),
    (frameOf c .rsten).length = 1 ∧ (frameOf c .rst).length = 1 ∧ (frameOf c .wren).length = 1 ∧
    (frameOf c .rdsr).length = 2 ∧ (frameOf c .rdid).length = 4 ∧ (frameOf c (.se a)).length = 4 ∧
    (frameOf c (.pp a data)).length = 4 + data.length ∧ (frameOf c (.rd a n)).length = 4 + n.toNat ∧
    ∀ i, c.ok = true → i.wellFormed c = true →
      (frameOf c i).length ≤ c.pageSize + 4 ∧ (frameOf c i).length < 2 ^ 17

/-- Every instruction, with every operand, is what the decoder reads from its own encoding: no bit of an encoding is
dropped, and no two instructions share one. -/
def Obligations.DecodeOfEncodeIsTheInstruction : Prop :=
  ∀ (c : Cfg) (i : Instr), decode (encode c i) = .ok i

/-- The other direction, for the frames that hold no filler (the value of a filler is ignored): what the decoder takes
for one of these commands is that command's encoding. -/
def Obligations.EncodeOfDecodeIsTheFrame : Prop :=
  ∀ (c : Cfg) (bytes : List Byte) (i : Instr),
    decode (.frame bytes) = .ok i →
    (i = .rsten ∨ i = .rst ∨ i = .wren ∨ (∃ a, i = .se a) ∨ ∃ a d, i = .pp a d) →
    encode c i = .frame bytes

/-- Words written out from 30_encoding.md sections 1 and 2. A sanity statement. -/
def Obligations.DecodedWordsFromTheTables : Prop :=
  decode (.frame [0x66]) = .ok .rsten ∧ decode (.frame [0x99]) = .ok .rst ∧
    decode (.frame [0x9F, 0, 0, 0]) = .ok .rdid ∧ decode (.frame [0x05, 0]) = .ok .rdsr ∧
    decode (.frame [0x06]) = .ok .wren ∧ decode (.frame [0x20, 0x01, 0x20, 0x00]) = .ok (.se 0x012000) ∧
    decode (.frame [0x02, 0x01, 0x23, 0x45, 0xDE, 0xAD]) = .ok (.pp 0x012345 [0xDE, 0xAD]) ∧
    decode (.frame [0x03, 0x01, 0x23, 0x45, 0x00, 0x00]) = .ok (.rd 0x012345 2)

/-- 30_encoding.md section 2: the host's operation codes (the spec's decision D17), the two reserved ones among them. -/
def Obligations.HostCodesNameTheOperations : Prop :=
  ∀ (a : Addr) (n : Len),
    decode (.request 0 a n) = .ok .reset ∧ decode (.request 1 a n) = .ok .readJedecID ∧
    decode (.request 2 a n) = .ok .writeEnable ∧ decode (.request 3 a n) = .ok (.sectorErase a) ∧
    decode (.request 4 a n) = .ok (.pageProgram a n) ∧ decode (.request 5 a n) = .ok (.read a n) ∧
    decode (.request 6 a n) = .error (.reservedOp 6) ∧ decode (.request 7 a n) = .error (.reservedOp 7)

/-- 30_encoding.md sections 2 and 4: the codes of the eight results (decision D18), and the identification string: two
upper-case hexadecimal digits for each byte, high nibble first, zero-padded, one space between (decision D20). -/
def Obligations.ResultCodesAndIdentificationString : Prop :=
  [Result.success, .busy, .writeEnableFailed, .eraseFailed, .programmingFailed, .readFailed, .timeout,
    .transportError].map Result.code = [0, 1, 2, 3, 4, 5, 6, 7] ∧
  (∀ r q : Result, r.code = q.code → r = q) ∧
  (∀ b0 b1 b2 : Byte,
    let d := fun n =>
      ['0', '1', '2', '3', '4', '5', '6', '7', '8', '9', 'A', 'B', 'C', 'D', 'E', 'F'].getD n ' '
    idStr (b0, b1, b2) =
      [d (b0.toNat / 16), d (b0.toNat % 16), ' ', d (b1.toNat / 16), d (b1.toNat % 16), ' ',
        d (b2.toNat / 16), d (b2.toNat % 16)]) ∧
  idStr (0xAA, 0xBB, 0xCC) = ['A', 'A', ' ', 'B', 'B', ' ', 'C', 'C'] ∧
  idStr (0x0A, 0x00, 0xF1) = ['0', 'A', ' ', '0', '0', ' ', 'F', '1']

/-! ## The start of an operation (each conclusion is the whole next state, so it is the frame too) -/

/-- 42_operations.md section 8 and 43_sequencer_fsm.md section 2: the start of the three operations without operands. -/
def Obligations.StartsWithoutOperands : Prop :=
  ∀ s : State, isIdle s = true →
    exec .reset s = .next { s with op := 0, done := false, main := .rstEn, poll := .none, xp := .sel } ∧
    exec .readJedecID s = .next { s with op := 1, done := false, main := .id, poll := .none, xp := .sel } ∧
    exec .writeEnable s = .next { s with
      op := 2, done := false, main := .weWait1, tlim := s.cfg.toWe, pollcnt := 0, poll := .read, xp := .sel }

/-- The start of `sectorErase`: the address is latched as given, with no check, and the handshake comes first. -/
def Obligations.SectorEraseStartsWithTheHandshake : Prop :=
  ∀ (s : State) (a : Addr), isIdle s = true →
    exec (.sectorErase a) s = .next { s with
      op := 3, addr := a, done := false
      main := .weWait1, tlim := s.cfg.toWe, pollcnt := 0, poll := .read, xp := .sel }

/-- The start of `pageProgram`: with `LEN <= PAGE_SIZE` (0 included) the handshake comes first. With more, the end with
`ProgrammingFailed` is due at once and no transport request is made (the spec's decision D14; what `MAIN` names until
then is the model's, log 1). -/
def Obligations.PageProgramStartsOrIsRejected : Prop :=
  ∀ (s : State) (a : Addr) (n : Len), isIdle s = true →
    (n.toNat ≤ s.cfg.pageSize → exec (.pageProgram a n) s = .next { s with
      op := 4, addr := a, len := n, done := false
      main := .weWait1, tlim := s.cfg.toWe, pollcnt := 0, poll := .read, xp := .sel }) ∧
    (s.cfg.pageSize < n.toNat → exec (.pageProgram a n) s = .next { s with
      op := 4, addr := a, len := n, done := false, main := .weWait1, ending := some .programmingFailed })

/-- The start of `read`: with `LEN <= PAGE_SIZE` (0 included) the busy check comes first. With more, the end with
`ReadFailed` is due at once and no transport request is made (the spec's decision D14; what `MAIN` names until then is
the model's, log 1). -/
def Obligations.ReadStartsOrIsRejected : Prop :=
  ∀ (s : State) (a : Addr) (n : Len), isIdle s = true →
    (n.toNat ≤ s.cfg.pageSize → exec (.read a n) s = .next { s with
      op := 5, addr := a, len := n, done := false, main := .rdCheck, poll := .none, xp := .sel }) ∧
    (s.cfg.pageSize < n.toNat → exec (.read a n) s = .next { s with
      op := 5, addr := a, len := n, done := false, main := .rdCheck, ending := some .readFailed })

/-- A start while an operation is in flight is refused (93_implementation_defined.md U7; decision D22). -/
def Obligations.StartWhileBusyIsRefused : Prop :=
  ∀ (i : Instr) (s : State), isOperation i = true → isIdle s = false → exec i s = .refused .startWhileBusy

/-- The frame of a start: whatever operation starts, every register but `STATE`, `OP`, `ADDR`, `LEN`, `TLIM`, `POLLCNT` and
`DONE` is as before, `ADDR` and `LEN` too where the operation has no such operand, `TLIM` and `POLLCNT` unless a wait
begins, no request is made, and every byte of both buffers reads as before. -/
def Obligations.StartsLeaveTheRestAlone : Prop :=
  ∀ (i : Instr) (s t : State), isOperation i = true → exec i s = .next t →
    t.sel = s.sel ∧ t.idx = s.idx ∧ t.status = s.status ∧ t.answer = s.answer ∧ t.result = s.result ∧
    t.id0 = s.id0 ∧ t.id1 = s.id1 ∧ t.id2 = s.id2 ∧ t.cfg = s.cfg ∧
    t.trace = s.trace ∧ t.transport = s.transport ∧ t.port = s.port ∧
    t.resetLine = s.resetLine ∧ t.linkHung = s.linkHung ∧ t.done = false ∧
    (i = .reset ∨ i = .readJedecID ∨ i = .writeEnable → t.addr = s.addr) ∧
    ((∀ a n, i ≠ .pageProgram a n) → (∀ a n, i ≠ .read a n) → t.len = s.len) ∧
    (isWait t.main = false ∨ t.ending ≠ none → t.tlim = s.tlim ∧ t.pollcnt = s.pollcnt) ∧
    ∀ a, Memory.read t.txd a = Memory.read s.txd a ∧ Memory.read t.rxd a = Memory.read s.rxd a

/-! ## The wire commands: three steps each (each conclusion is the whole next state, so it is the frame too) -/

/-- First step of every emitted command in its phase: `Sel()`. -/
def Obligations.CommandsAssertSelectFirst : Prop :=
  ∀ (i : Instr) (s : State), CanRun i s → s.xp = .sel →
    exec i s = .next { s with sel := true, idx := 0, xp := .xchg, trace := s.trace ++ [.sel] }

/-- Second step: one `Xchg` of the whole frame, answered by the transport, whether it fails or not. -/
def Obligations.CommandsExchangeTheirFrame : Prop :=
  ∀ (i : Instr) (s : State) (rx : Option (List Byte)) (u : Transport), CanRun i s → s.xp = .xchg →
    s.transport.exchange s.trace (frameOf s.cfg i) = (rx, u) →
    ∃ k : BitVec 17, k.toNat < (frameOf s.cfg i).length ∧
      (rx.isSome = true → s.cfg.ok = true → k.toNat = (frameOf s.cfg i).length - 1) ∧
      exec i s = .next { s with
        xp := .desel, answer := rx, transport := u, idx := k
        trace := s.trace ++ [.xchg (frameOf s.cfg i) rx] }

/-- Third step after a failure: `Desel()`, and the end with `TransportError` is due, for every command and phase
(60_exceptions.md section 1; decision D10: at the first failure). -/
def Obligations.FailedExchangeEndsWithTransportError : Prop :=
  ∀ (i : Instr) (s : State), CanRun i s → s.xp = .desel → s.answer = none →
    exec i s = .next { s with
      sel := false, trace := s.trace ++ [.desel], poll := .none, xp := .none, ending := some .transportError }

/-- Third step of the five commands whose received bytes are discarded: `Desel()`, and the next phase of R192's table. -/
def Obligations.CommandsGoToTheNextPhase : Prop :=
  ∀ (s : State) (rx : List Byte) (a : Addr) (data : List Byte), s.xp = .desel → s.answer = some rx →
    (CanRun .rsten s → exec .rsten s = .next { s with
      sel := false, trace := s.trace ++ [.desel], main := .rstGap, poll := .none, xp := .none }) ∧
    (CanRun .rst s → exec .rst s = .next { s with
      sel := false, trace := s.trace ++ [.desel], main := .rstSettle, poll := .none, xp := .none }) ∧
    (CanRun .wren s → exec .wren s = .next { s with
      sel := false, trace := s.trace ++ [.desel]
      main := .weWait2, tlim := s.cfg.toWe, pollcnt := 0, poll := .read, xp := .sel }) ∧
    (CanRun (.se a) s → exec (.se a) s = .next { s with
      sel := false, trace := s.trace ++ [.desel]
      main := .erWait, tlim := s.cfg.toErase, pollcnt := 0, poll := .read, xp := .sel }) ∧
    (CanRun (.pp a data) s → exec (.pp a data) s = .next { s with
      sel := false, trace := s.trace ++ [.desel]
      main := .ppWait, tlim := s.cfg.toProg, pollcnt := 0, poll := .read, xp := .sel })

/-- Third step of `RDID`: the three identification bytes, and the end with `Success` is due. Byte 0 is discarded. -/
def Obligations.ReadIdLatchesTheThreeBytes : Prop :=
  ∀ (s : State) (r0 r1 r2 r3 : Byte), CanRun .rdid s → s.xp = .desel → s.answer = some [r0, r1, r2, r3] →
    exec .rdid s = .next { s with
      sel := false, trace := s.trace ++ [.desel], id0 := r1, id1 := r2, id2 := r3
      poll := .none, xp := .none, ending := some .success }

/-- Third step of `RD`: received byte `4 + i` lands in `RXD[i]` for `i < n`, every other byte of `RXD` is as before, the
end with `Success` is due, and nothing else changes. -/
def Obligations.ReadDataFillsTheReceiveBuffer : Prop :=
  ∀ (s : State) (a : Addr) (n : Len) (h0 h1 h2 h3 : Byte) (data : List Byte), CanRun (.rd a n) s → s.xp = .desel →
    s.answer = some (h0 :: h1 :: h2 :: h3 :: data) → data.length = n.toNat → s.rxd.wf →
    ∃ m : Memory,
      exec (.rd a n) s = .next { s with
        sel := false, trace := s.trace ++ [.desel], rxd := m
        poll := .none, xp := .none, ending := some .success } ∧
      (∀ (i : Nat) (h : i < data.length), Memory.read m i = data[i]) ∧
      (∀ i, n.toNat ≤ i → Memory.read m i = Memory.read s.rxd i) ∧ m.wf

/-- Third step of `RDSR` in a wait: `STATUS` takes the second byte, all eight bits. Ready ends the wait, in the two waits
of the handshake with the next phase and in the other three with `Success`; busy with `POLLCNT >= TLIM` ends it
with `Timeout`; otherwise one more delay is due. An end is the next step. Ready wins over an expired limit. -/
def Obligations.StatusReadInAWait : Prop :=
  ∀ (s : State) (r0 st : Byte), CanRun .rdsr s → s.xp = .desel → s.answer = some [r0, st] → isWait s.main = true →
    (st.getLsbD 0 = false → s.main = .weWait1 → exec .rdsr s = .next { s with
      sel := false, trace := s.trace ++ [.desel], status := st, main := .weCmd, poll := .none, xp := .sel }) ∧
    (st.getLsbD 0 = false → s.main = .weWait2 → exec .rdsr s = .next { s with
      sel := false, trace := s.trace ++ [.desel], status := st, main := .weVerify, poll := .none, xp := .sel }) ∧
    (st.getLsbD 0 = false → s.main ≠ .weWait1 → s.main ≠ .weWait2 → exec .rdsr s = .next { s with
      sel := false, trace := s.trace ++ [.desel], status := st
      poll := .none, xp := .none, ending := some .success }) ∧
    (st.getLsbD 0 = true → s.tlim ≤ s.pollcnt → exec .rdsr s = .next { s with
      sel := false, trace := s.trace ++ [.desel], status := st
      poll := .none, xp := .none, ending := some .timeout }) ∧
    (st.getLsbD 0 = true → s.pollcnt < s.tlim → exec .rdsr s = .next { s with
      sel := false, trace := s.trace ++ [.desel], status := st, poll := .delay, xp := .none })

/-- Third step of `RDSR` in `S_WE_VERIFY`: the latch bit decides, and then `OP`. The busy bit is not tested. -/
def Obligations.StatusReadInTheVerifyStep : Prop :=
  ∀ (s : State) (r0 st : Byte), CanRun .rdsr s → s.xp = .desel → s.answer = some [r0, st] → s.main = .weVerify →
    (st.getLsbD s.cfg.welBit = false → exec .rdsr s = .next { s with
      sel := false, trace := s.trace ++ [.desel], status := st
      poll := .none, xp := .none, ending := some .writeEnableFailed }) ∧
    (st.getLsbD s.cfg.welBit = true → s.op = 2 → exec .rdsr s = .next { s with
      sel := false, trace := s.trace ++ [.desel], status := st
      poll := .none, xp := .none, ending := some .success }) ∧
    (st.getLsbD s.cfg.welBit = true → s.op = 3 → exec .rdsr s = .next { s with
      sel := false, trace := s.trace ++ [.desel], status := st, main := .erCmd, poll := .none, xp := .sel }) ∧
    (st.getLsbD s.cfg.welBit = true → s.op = 4 → exec .rdsr s = .next { s with
      sel := false, trace := s.trace ++ [.desel], status := st, main := .ppCmd, poll := .none, xp := .sel })

/-- Third step of `RDSR` in `S_RD_CHECK`: busy ends `read` with `Busy` (decision D15), ready goes on to the frame. The
latch bit plays no part. -/
def Obligations.StatusReadBeforeARead : Prop :=
  ∀ (s : State) (r0 st : Byte), CanRun .rdsr s → s.xp = .desel → s.answer = some [r0, st] → s.main = .rdCheck →
    (st.getLsbD 0 = true → exec .rdsr s = .next { s with
      sel := false, trace := s.trace ++ [.desel], status := st
      poll := .none, xp := .none, ending := some .busy }) ∧
    (st.getLsbD 0 = false → exec .rdsr s = .next { s with
      sel := false, trace := s.trace ++ [.desel], status := st, main := .rdCmd, poll := .none, xp := .sel })

/-- 30_encoding.md section 5: the three opcodes that are named and never used stop in every state. -/
def Obligations.NeverEmittedOpcodesStop : Prop :=
  ∀ s : State, exec .wrsr s = .refused .writeStatusNeverEmitted ∧ exec .wrdi s = .refused .writeDisableNeverEmitted ∧
    exec .rstff s = .refused .resetFFNeverEmitted

/-- A wire command outside the phases that emit it stops: no host can start one (the model's choice, log 13). -/
def Obligations.CommandsOutOfPhaseAreRefused : Prop :=
  ∀ (i : Instr) (s : State), isEmitted i = true → ¬ inItsPhase i s → exec i s = .refused .commandOutOfPhase

/-- The frame of a wire command, on every path that goes on: `OP`, `ADDR`, `LEN`, `RESULT`, `DONE`, `TXD` and the outside
are as before. `STATUS` changes only with `RDSR`, `ID` only with `RDID`, `RXD` only with `RD` and only below `n`, `TLIM`
and `POLLCNT` only when a wait is entered. -/
def Obligations.CommandsLeaveTheRestAlone : Prop :=
  ∀ (i : Instr) (s t : State), isEmitted i = true → exec i s = .next t →
    t.cfg = s.cfg ∧ t.op = s.op ∧ t.addr = s.addr ∧ t.len = s.len ∧ t.port = s.port ∧
    t.resetLine = s.resetLine ∧ t.linkHung = s.linkHung ∧ t.result = s.result ∧ t.done = s.done ∧
    (i ≠ .rdsr → t.status = s.status) ∧
    (i ≠ .rdid → t.id0 = s.id0 ∧ t.id1 = s.id1 ∧ t.id2 = s.id2) ∧
    (t.main = s.main ∨ isWait t.main = false → t.tlim = s.tlim ∧ t.pollcnt = s.pollcnt) ∧
    (∀ a, Memory.read t.txd a = Memory.read s.txd a) ∧
    ((∀ a n, i ≠ .rd a n) → ∀ k, Memory.read t.rxd k = Memory.read s.rxd k) ∧
    (∀ a n, i = .rd a n → ∀ k, n.toNat ≤ k → Memory.read t.rxd k = Memory.read s.rxd k)

/-- The bits of the status byte other than busy and the latch do not matter (30_encoding.md section 3): two answers that
agree on those two bits lead to states that differ in `STATUS` alone. -/
def Obligations.ReservedStatusBitsAreIgnored : Prop :=
  ∀ (s t : State) (r0 r0' st st' : Byte), CanRun .rdsr s → s.xp = .desel →
    st.getLsbD 0 = st'.getLsbD 0 → st.getLsbD s.cfg.welBit = st'.getLsbD s.cfg.welBit →
    exec .rdsr { s with answer := some [r0, st] } = .next t →
    exec .rdsr { s with answer := some [r0', st'] } = .next { t with answer := some [r0', st'], status := st' }

/-! ## The step -/

/-- A step of the idle machine runs the instruction its decoder reads from the host's record, once the record has left
the port and its `TXD` is the transmit buffer. -/
def Obligations.StepRunsTheHostsRequest : Prop :=
  ∀ (s : State) (r : Request) (rest : List Request) (i : Instr), s.resetLine = false → isIdle s = true →
    s.port = r :: rest → decode r.code = .ok i →
    step s = exec i { s with port := rest, txd := Memory.ofBytes r.txd }

/-- A step of a phase that emits a command runs that command, with the latched operands; its frame decodes to it. -/
def Obligations.StepRunsThePhasesCommand : Prop :=
  ∀ (s : State) (i : Instr), s.resetLine = false → phaseOk s = true → phaseCommand s = some i →
    step s = exec i s ∧ decode (.frame (frameOf s.cfg i)) = .ok i ∧ encode s.cfg i = .frame (frameOf s.cfg i)

/-- The three delays (R192, R194): 1 ms between the reset frames, 2 ms after them, 1 ms between polls. Each is one event,
and the sequencer's other registers stay. -/
def Obligations.StepDelaysAndGoesOn : Prop :=
  ∀ s : State, Undisturbed s → phaseOk s = true →
    (s.main = .rstGap → step s = .next { s with
      trace := s.trace ++ [.delay 1], main := .rstCmd, poll := .none, xp := .sel }) ∧
    (s.main = .rstSettle → step s = .next { s with
      trace := s.trace ++ [.delay 2]
      main := .rstWait, tlim := s.cfg.toReset, pollcnt := 0, poll := .read, xp := .sel }) ∧
    (isWait s.main = true → s.poll = .delay → step s = .next { s with
      trace := s.trace ++ [.delay 1], pollcnt := s.pollcnt + 1, poll := .read, xp := .sel })

/-- The idle machine with nothing at its port does nothing, and a reserved host code changes nothing but the port (the
spec's decision D17; that the record leaves the port is the model's, log 9). -/
def Obligations.IdleStepsThatStartNothing : Prop :=
  ∀ s : State, s.resetLine = false → isIdle s = true →
    (s.port = [] → step s = .next s) ∧
    (∀ r rest op a n, s.port = r :: rest → r.code = .request op a n → op = 6 ∨ op = 7 →
      step s = .next { s with port := rest })

/-- Block reset in any state, an open transaction or not (the spec's decision D25; the registers' values and the mark in
the trace are the model's, log 2 and log 11): `S_IDLE`, `SEL = 0`, `DONE = 0`, no transport request. -/
def Obligations.BlockResetFromAnyState : Prop :=
  ∀ s : State, s.resetLine = true →
    ∃ t, step s = .next t ∧ t.main = .idle ∧ t.poll = .none ∧ t.xp = .none ∧ t.sel = false ∧ t.done = false ∧
      t.trace = s.trace ++ [.blockReset] ∧ t.cfg = s.cfg ∧ t.transport = s.transport ∧ t.port = s.port ∧
      (∀ a, Memory.read t.txd a = Memory.read s.txd a) ∧ (∀ a, Memory.read t.rxd a = Memory.read s.rxd a)

/-- A request that never returns stops the machine in every phase (93_implementation_defined.md U9): every step of an
operation faults then, but for the end, which makes no request. -/
def Obligations.HungTransportStopsEveryPhase : Prop :=
  ∀ s : State, s.resetLine = false → s.linkHung = true → phaseOk s = true → s.main ≠ .idle → s.ending = none →
    step s = .fault .transportNeverReturns

/-- 43_sequencer_fsm.md section 1: a step makes at most one transport request (or is a block reset), so a trace only
grows, by at most one event. -/
def Obligations.StepMakesAtMostOneRequest : Prop :=
  ∀ s t : State, step s = .next t → t.trace = s.trace ∨ ∃ e, t.trace = s.trace ++ [e]

/-- Who may write what (10_state.md sections 1, 2 and 4): no step changes the configuration. But for a block reset: `TXD`
changes only in the step that takes a record (that the record's payload becomes `TXD` is the model's port, log 8; the
sequencer never writes it); `RXD` and `ID` only with the `Desel()` after which the end of `read` or `readJedecID` with
`Success` is due; `OP`, `ADDR`, `LEN` only when an operation starts; `RESULT` only at an end, and `DONE` rises only
there. -/
def Obligations.OnlyTheseStepsWrite : Prop :=
  ∀ s t : State, step s = .next t → t.cfg = s.cfg ∧
    (s.resetLine = false →
      ((∃ a, Memory.read t.txd a ≠ Memory.read s.txd a) → isIdle s = true ∧ s.port.length = t.port.length + 1) ∧
      ((∃ a, Memory.read t.rxd a ≠ Memory.read s.rxd a) → s.main = .rdCmd ∧ t.ending = some .success) ∧
      ((t.id0, t.id1, t.id2) ≠ (s.id0, s.id1, s.id2) → s.main = .id ∧ t.ending = some .success) ∧
      ((t.op, t.addr, t.len) ≠ (s.op, s.addr, s.len) → isIdle s = true ∧ s.port.length = t.port.length + 1) ∧
      (t.result ≠ s.result → s.ending = some t.result) ∧
      (t.done = true → s.done = true ∨ s.ending = some t.result))

/-- One command's three steps are one transaction (R126): `S`, one `X` of the whole frame, `D`, and the select line is
released on every path, a failed exchange too. -/
def Obligations.ThreeStepsAreOneTransaction : Prop :=
  ∀ (s : State) (i : Instr), Invariant s → Undisturbed s → s.xp = .sel → phaseCommand s = some i →
    ∃ (t : State) (rx : Option (List Byte)), steps 3 s = .next t ∧
      rx = (s.transport.exchange (s.trace ++ [.sel]) (frameOf s.cfg i)).1 ∧
      (∀ r, rx = some r → r.length = (frameOf s.cfg i).length) ∧
      t.trace = s.trace ++ [.sel, .xchg (frameOf s.cfg i) rx, .desel] ∧ t.sel = false

/-! ## The invariant -/

/-- The state after reset meets the invariant, whatever the free configuration is. -/
def Obligations.ResetMeetsTheInvariant : Prop := Invariant State.reset

/-- Every step keeps the invariant (R23, R28, R127, R190, R197, R62, R92, R220 as `Invariant` spells them). -/
def Obligations.EveryStepKeepsTheInvariant : Prop :=
  ∀ s t : State, Invariant s → step s = .next t → Invariant t

/-- The machine never faults by itself: from a state that meets the invariant and with a transport that returns, a step
goes on, unless the host put something at the port that is no request of R91. -/
def Obligations.InvariantStatesGoOn : Prop :=
  ∀ s : State, Invariant s → s.linkHung = false →
    (∃ t, step s = .next t) ∨
      (s.main = .idle ∧ s.resetLine = false ∧ ∃ (r : Request) (rest : List Request) (bytes : List Byte),
        s.port = r :: rest ∧ r.code = .frame bytes ∧ ∃ why, step s = .refused why)

/-- R120 and R121, whole: `Sel()` is requested only by a transaction and only with `SEL = 0`, sets `SEL` to 1 and cannot
fail; `Desel()` only by a transaction and only with `SEL = 1`, sets `SEL` to 0 and cannot fail. Each is its one event.
(With a transport that returns, and no block reset.) -/
def Obligations.SelectRequestsPairUp : Prop :=
  ∀ s : State, Invariant s → Undisturbed s →
    (s.xp = .sel → ∃ t, step s = .next t ∧ s.sel = false ∧ t.sel = true ∧ t.trace = s.trace ++ [.sel]) ∧
    (s.xp = .desel → ∃ t, step s = .next t ∧ s.sel = true ∧ t.sel = false ∧ t.trace = s.trace ++ [.desel]) ∧
    (∀ t, step s = .next t → (t.trace = s.trace ++ [.sel] ∨ (s.sel = false ∧ t.sel = true)) → s.xp = .sel) ∧
    (∀ t, step s = .next t → (t.trace = s.trace ++ [.desel] ∨ (s.sel = true ∧ t.sel = false)) → s.xp = .desel)

/-- R214, whole. The step in which an operation comes to `return r` is the `Desel()` of its open transaction, or, when the
length check rejects, the start itself, which makes no request; either way `SEL = 0`. Then comes the end: `RESULT <- r`,
`DONE <- 1`, `STATE <- S_IDLE`, no request, and nothing else saved or restored. No further request is made, however long
the machine is left alone. And an operation in flight comes back to `S_IDLE` in no other way. -/
def Obligations.AnEndedOperationMakesNoFurtherRequest : Prop :=
  (∀ (s t : State) (r : Result), Invariant s → Undisturbed s → step s = .next t → t.ending = some r →
    t.sel = false ∧
    ((s.xp = .desel ∧ t.trace = s.trace ++ [.desel]) ∨
      (s.main = .idle ∧ t.trace = s.trace ∧ s.cfg.pageSize < t.len.toNat ∧
        ((t.op = 4 ∧ r = .programmingFailed) ∨ (t.op = 5 ∧ r = .readFailed)))) ∧
    ∃ u : State, step t = .next u ∧ u.result = r ∧ u.done = true ∧ u.main = .idle ∧ u.poll = .none ∧ u.xp = .none ∧
      u.sel = false ∧ u.trace = t.trace ∧ u.transport = t.transport ∧ u.op = t.op ∧ u.addr = t.addr ∧
      u.len = t.len ∧ u.idx = t.idx ∧ u.pollcnt = t.pollcnt ∧ u.tlim = t.tlim ∧ u.status = t.status ∧
      (u.id0, u.id1, u.id2) = (t.id0, t.id1, t.id2) ∧ u.txd = t.txd ∧ u.rxd = t.rxd ∧
      ∀ n, steps n { u with port := [] } = .next { u with port := [] }) ∧
  (∀ s t : State, Invariant s → Undisturbed s → s.main ≠ .idle → step s = .next t → t.main = .idle →
    s.ending = some t.result)

/-- R123, whole: a delay is 1 ms (poll pacing, and the gap between the reset frames) or 2 ms (post-reset settle), only
with `SEL = 0`; it changes no state of the sequencer, is one event, and cannot fail. -/
def Obligations.DelaysAreEventsOutsideEveryBracket : Prop :=
  (∀ (n : Nat) (s : State), delayReq n s = { s with trace := s.trace ++ [.delay n] }) ∧
  (∀ (s t : State) (n : Nat), Invariant s → step s = .next t → t.trace = s.trace ++ [.delay n] →
    s.sel = false ∧ t.sel = false ∧
    ((n = 1 ∧ (s.main = .rstGap ∨ (isWait s.main = true ∧ s.poll = .delay))) ∨ (n = 2 ∧ s.main = .rstSettle))) ∧
  (∀ s : State, Undisturbed s → phaseOk s = true →
    s.main = .rstGap ∨ s.main = .rstSettle ∨ (isWait s.main = true ∧ s.poll = .delay) → ∃ t, step s = .next t)

/-- R212, whole. Whenever a wait reads busy with `POLLCNT >= TLIM`, the operation ends with `Timeout`: the `Desel()` and
the end are the next two steps. The end with `Timeout` is due only then, and `Timeout` is returned only by that end: by
the final wait of `reset`, a wait of the handshake, or the final wait of `sectorErase` or `pageProgram`, so never by
`read` or `readJedecID`. -/
def Obligations.TimeoutExactlyWhenAWaitGivesUp : Prop :=
  (∀ (s : State) (r0 st : Byte), Invariant s → Undisturbed s → s.xp = .desel → isWait s.main = true →
    s.answer = some [r0, st] → st.getLsbD 0 = true → s.tlim ≤ s.pollcnt →
    ∃ t u : State, step s = .next t ∧ t.ending = some .timeout ∧ step t = .next u ∧ u.main = .idle ∧ u.done = true ∧
      u.result = .timeout ∧ u.trace = s.trace ++ [.desel]) ∧
  (∀ s t : State, Invariant s → s.resetLine = false → step s = .next t →
    (t.ending = some .timeout ↔ s.xp = .desel ∧ isWait s.main = true ∧
      ∃ r0 st, s.answer = some [r0, st] ∧ st.getLsbD 0 = true ∧ s.tlim ≤ s.pollcnt)) ∧
  (∀ s t : State, Invariant s → s.resetLine = false → s.main ≠ .idle → step s = .next t →
    (t.main = .idle ∧ t.result = .timeout ↔ s.ending = some .timeout) ∧
    (s.ending = some .timeout →
      (s.op = 0 ∧ s.main = .rstWait) ∨
      ((s.op = 2 ∨ s.op = 3 ∨ s.op = 4) ∧ (s.main = .weWait1 ∨ s.main = .weWait2)) ∨
      (s.op = 3 ∧ s.main = .erWait) ∨ (s.op = 4 ∧ s.main = .ppWait)))

/-- R215, whole. Whenever the status byte read in step 4 of the handshake has the latch bit clear, the operation ends with
`WriteEnableFailed`: the `Desel()` and the end are the next two steps. The end with `WriteEnableFailed` is due only then,
and it is returned only by that end. When `sectorErase` or `pageProgram` returns it, neither frame was sent. -/
def Obligations.WriteEnableFailedExactlyWhenTheLatchIsClear : Prop :=
  (∀ (s : State) (r0 st : Byte), Invariant s → Undisturbed s → s.xp = .desel → s.main = .weVerify →
    s.answer = some [r0, st] → st.getLsbD s.cfg.welBit = false →
    ∃ t u : State, step s = .next t ∧ t.ending = some .writeEnableFailed ∧ step t = .next u ∧ u.main = .idle ∧
      u.done = true ∧ u.result = .writeEnableFailed ∧ u.trace = s.trace ++ [.desel]) ∧
  (∀ s t : State, Invariant s → s.resetLine = false → step s = .next t →
    (t.ending = some .writeEnableFailed ↔ s.xp = .desel ∧ s.main = .weVerify ∧
      ∃ r0 st, s.answer = some [r0, st] ∧ st.getLsbD s.cfg.welBit = false)) ∧
  (∀ s t : State, Invariant s → s.resetLine = false → s.main ≠ .idle → step s = .next t →
    (t.main = .idle ∧ t.result = .writeEnableFailed ↔ s.ending = some .writeEnableFailed)) ∧
  (∀ (i : Instr) (s t : State), (∃ a, i = .sectorErase a) ∨ (∃ a n, i = .pageProgram a n) →
    Procedure.operation i s = some t → t.result = .writeEnableFailed →
    ∃ added : List Event, t.trace = s.trace ++ added ∧
      ∀ tx rx, Event.xchg tx rx ∈ added → firstByte tx ≠ 0x20 ∧ firstByte tx ≠ 0x02)

/-- The write-enable gate (20_memory.md section 6): when a step sends a frame with opcode 0x20 or 0x02, the trace before
it shows a completed write-enable frame followed by at least two completed status reads and nothing but 1 ms delays
besides, and the last status byte had the latch set. -/
def Obligations.MutatingFramesAreGated : Prop :=
  ∀ (s t : State) (tx : List Byte) (rx : Option (List Byte)), Invariant s → step s = .next t →
    t.trace = s.trace ++ [.xchg tx rx] → firstByte tx = 0x20 ∨ firstByte tx = 0x02 →
    s.status.getLsbD s.cfg.welBit = true ∧
    ∃ (pre post : List Event) (r : List Byte), s.trace = pre ++ .xchg [0x06] (some r) :: post ∧
      2 ≤ countXchg post ∧
      ∀ e ∈ post, e = .sel ∨ e = .desel ∨ e = .delay 1 ∨ ∃ f r0 st, e = .xchg [0x05, f] (some [r0, st])

/-- R127, after a run of any length without a block reset: outside a transaction the trace has as many `S` as `D`, and as
many `X`; inside one it is one `D` short, and before its exchange one `X` short (40_transport_transaction.md section 2). -/
def Obligations.ClosedTracesBalance : Prop :=
  ∀ (n : Nat) (s t : State), Invariant s → steps n s = .next t → Event.blockReset ∉ t.trace →
    (t.xp = .none ∨ t.xp = .sel → t.trace.count .sel = t.trace.count .desel ∧ countXchg t.trace = t.trace.count .sel) ∧
    (t.xp = .xchg → t.trace.count .sel = t.trace.count .desel + 1 ∧ countXchg t.trace + 1 = t.trace.count .sel) ∧
    (t.xp = .desel → t.trace.count .sel = t.trace.count .desel + 1 ∧ countXchg t.trace = t.trace.count .sel)

/-- The matrix of results (60_exceptions.md section 2) over runs of any length: an ended operation returned a result its
row allows, and `EraseFailed` is never returned. -/
def Obligations.RunsReturnWhatTheMatrixAllows : Prop :=
  ∀ (n : Nat) (s t : State), Invariant s → steps n s = .next t → t.done = true →
    canReturn t.op t.result ∧ t.result ≠ .eraseFailed

/-! ## Whole operations -/

/-- The phase machine does what the normative procedures say (10_state.md, 43_sequencer_fsm.md section 1): from the idle
machine with a host operation at its port, the run of steps reaches the very state the operation's procedure gives,
within the bound. -/
def Obligations.OperationsRunTheirProcedures : Prop :=
  ∀ (s t : State) (r : Request) (rest : List Request) (i : Instr), Undisturbed s → isIdle s = true → s.cfg.ok = true →
    s.port = r :: rest → decode r.code = .ok i →
    Procedure.operation i { s with port := rest, txd := Memory.ofBytes r.txd } = some t →
    ∃ n, n ≤ stepBound s.cfg + 1 ∧ steps n s = .next t

/-- Every operation ends (43_sequencer_fsm.md section 4): from any state of an operation in flight, under a transport
that returns, within a bound that only the timeouts fix. -/
def Obligations.EveryOperationEnds : Prop :=
  ∀ s : State, Invariant s → Undisturbed s → s.main ≠ .idle →
    ∃ (n : Nat) (t : State), n ≤ stepBound s.cfg ∧ steps n s = .next t ∧ isIdle t = true ∧ t.done = true ∧ t.sel = false

/-- Bounds of `WaitReady(T)` (41_status_write_enable.md section 2, decision D8): `k` delays and `k + 1` exchanges with
`k <= T`, each of them a status read; `POLLCNT = k` and `TLIM = T` at the end; `Timeout` only with `k = T` and a busy
status, `Success` only with a ready one, and nothing else but `TransportError`. -/
def Obligations.WaitReadyIsBounded : Prop :=
  ∀ (s t : State) (limit : Millis) (r : Result), Procedure.waitReady limit s = (r, t) →
    ∃ (k : Nat) (added : List Event), k ≤ limit.toNat ∧ t.trace = s.trace ++ added ∧
      countXchg added = k + 1 ∧ (∀ tx rx, Event.xchg tx rx ∈ added → tx = [0x05, s.cfg.filler]) ∧
      added.count (.delay 1) = k ∧ added.length = 3 * (k + 1) + k ∧
      t.pollcnt.toNat = k ∧ t.tlim = limit ∧
      ((r = .success ∧ t.status.getLsbD 0 = false) ∨
        (r = .timeout ∧ k = limit.toNat ∧ t.status.getLsbD 0 = true) ∨ r = .transportError)

/-- `WriteEnable` (41_status_write_enable.md section 3): `Success` means the last status byte had the latch set, and
`WriteEnableFailed` that it had not. On either, write-enable was sent exactly once. -/
def Obligations.WriteEnableReportsTheLatch : Prop :=
  ∀ (s t : State) (r : Result), Procedure.writeEnable s = (r, t) →
    (r = .success → t.status.getLsbD s.cfg.welBit = true) ∧
    (r = .writeEnableFailed → t.status.getLsbD s.cfg.welBit = false) ∧
    (r = .success ∨ r = .writeEnableFailed →
      ∃ added : List Event, t.trace = s.trace ++ added ∧
        (added.filter fun e => match e with | .xchg tx _ => firstByte tx == 0x06 | _ => false).length = 1) ∧
    (r = .success ∨ r = .writeEnableFailed ∨ r = .timeout ∨ r = .transportError)

/-- 10_state.md section 1: between operations the sequencer holds no information. Two machines that share only their
surroundings, whatever is in the sequencer's own registers, run the same operation with the same trace, the same result
and the same valid outputs. -/
def Obligations.NoInformationBetweenOperations : Prop :=
  ∀ (i : Instr) (s t u v : State), SameSurroundings s t →
    s.rxd.wf → t.rxd.wf → Procedure.operation i s = some u → Procedure.operation i t = some v →
    u.trace = v.trace ∧ u.transport = v.transport ∧ resultOut u = resultOut v ∧ idOut u = idOut v ∧ rxdOut u = rxdOut v

/-- The round trip (70_reset_and_hazards.md section 3) against the simple device of 95_test_vectors.md 0.3 (ready, not
failing, with a latch in bit 1): `pageProgram(addr, data, len)` then `read(addr, len)` both end with `Success`, and the
host reads exactly `data`. -/
def Obligations.ReadAfterPageProgramReturnsTheData : Prop :=
  ∀ (s : State) (d : Device) (a : Addr) (data : List Byte), Undisturbed s → isIdle s = true → s.cfg.ok = true →
    s.cfg.welBit = 1 → s.rxd.wf → s.transport = .simple d → d.mem.wf → d.busyCnt = 0 → d.busyForever = false →
    d.noLatch = false → d.failAt = none → d.bPp ≤ s.cfg.toProg.toNat → data.length ≤ s.cfg.pageSize →
    s.port = [⟨.request 4 a (BitVec.ofNat 16 data.length), data⟩, ⟨.request 5 a (BitVec.ofNat 16 data.length), []⟩] →
    ∃ (m n : Nat) (t u : State), steps m s = .next t ∧ isIdle t = true ∧ resultOut t = some 0 ∧
      t.port.length = 1 ∧ steps n t = .next u ∧ isIdle u = true ∧ resultOut u = some 0 ∧ u.port = [] ∧
      rxdOut u = some data

/-- R164, whole: `readJedecID` from its start to its end is one transaction, with no busy check, gate or poll. When the
exchange fails the result is `TransportError` and `ID` is neither written nor valid; otherwise `ID` is bytes 1 to 3,
unvalidated, and the result is `Success`. Nothing else is written but `SEL`, the framer's scratch and the operation's own
bookkeeping. -/
def Obligations.ReadJedecIdFromStartToEnd : Prop :=
  ∀ (s : State) (r : Request) (rest : List Request) (a : Addr) (n : Len), Undisturbed s → isIdle s = true →
    s.port = r :: rest → r.code = .request 1 a n →
    ∃ (k : Nat) (t : State) (rx : Option (List Byte)), steps k s = .next t ∧
      rx = (s.transport.exchange (s.trace ++ [.sel]) [0x9F, s.cfg.filler, s.cfg.filler, s.cfg.filler]).1 ∧
      t.trace = s.trace ++ [.sel, .xchg [0x9F, s.cfg.filler, s.cfg.filler, s.cfg.filler] rx, .desel] ∧
      isIdle t = true ∧ t.done = true ∧ t.sel = false ∧ t.op = 1 ∧
      t.cfg = s.cfg ∧ t.addr = s.addr ∧ t.len = s.len ∧ t.status = s.status ∧ t.pollcnt = s.pollcnt ∧
      t.tlim = s.tlim ∧ t.port = rest ∧ t.rxd = s.rxd ∧
      (rx = none → t.result = .transportError ∧ (t.id0, t.id1, t.id2) = (s.id0, s.id1, s.id2) ∧ idOut t = none) ∧
      (∀ r0 r1 r2 r3, rx = some [r0, r1, r2, r3] →
        t.result = .success ∧ idOut t = some (r1, r2, r3) ∧ (idOut t).map idStr = some (idStr (r1, r2, r3))) ∧
      (∀ r0, rx = some [r0, 0xAA, 0xBB, 0xCC] →
        (idOut t).map idStr = some ['A', 'A', ' ', 'B', 'B', ' ', 'C', 'C']) ∧
      (∀ q, rx = some q → q.length = 4)

/-- The reset sequence (42_operations.md section 2): exactly two single-byte exchanges, 0x66 then 0x99, with `W(1)`
between them and `W(2)` before the first poll. If the first frame fails neither delay is made and 0x99 is not sent; if
the second fails, `W(2)` is not made and no poll is made. -/
def Obligations.ResetSendsItsTwoFrames : Prop :=
  ∀ (s : State) (r : Request) (rest : List Request) (a : Addr) (n : Len) (r0 r1 : Byte)
    (more : List (Option (List Byte))), Undisturbed s → isIdle s = true →
    s.port = r :: rest → r.code = .request 0 a n →
    (s.transport = .oracle (none :: more) → ∃ k t, steps k s = .next t ∧ isIdle t = true ∧ t.done = true ∧
      t.result = .transportError ∧ t.trace = s.trace ++ [.sel, .xchg [0x66] none, .desel]) ∧
    (s.transport = .oracle (some [r0] :: none :: more) → ∃ k t, steps k s = .next t ∧ isIdle t = true ∧
      t.done = true ∧ t.result = .transportError ∧
      t.trace = s.trace ++
        [.sel, .xchg [0x66] (some [r0]), .desel, .delay 1, .sel, .xchg [0x99] none, .desel]) ∧
    (s.transport = .oracle (some [r0] :: some [r1] :: more) → ∃ k t, steps k s = .next t ∧ t.main = .rstWait ∧
      t.poll = .read ∧ t.xp = .sel ∧ t.tlim = s.cfg.toReset ∧ t.pollcnt = 0 ∧ t.done = false ∧
      t.trace = s.trace ++
        [.sel, .xchg [0x66] (some [r0]), .desel, .delay 1, .sel, .xchg [0x99] (some [r1]), .desel, .delay 2])

/-! ## The end -/

/-- The end of an operation is a step of its own (R191; the spec's decision D1), in every phase in which it is due, whether
or not the transport returns: `RESULT`, `DONE` and `STATE` are written, no request is made, and nothing else changes but
the recorded answer, which the model drops (log 22). -/
def Obligations.TheEndIsAStepOfItsOwn : Prop :=
  ∀ (s : State) (r : Result), s.resetLine = false → phaseOk s = true → s.ending = some r →
    step s = .next { s with
      result := r, done := true, main := .idle, poll := .none, xp := .none, ending := none, answer := none }
end

