-- ==== Sys2Proof/Laws/Memory.lean ====
section
/-! SUPPORT. Byte memories: every operation keeps the canonical form, a read after a write gives the byte written, and
a write leaves every other address alone. -/

namespace Sys2Proof.Machine

theorem Memory.wf_nil : Memory.wf [] := by simp [Memory.wf]

theorem Memory.wf_cons {c : Host.Cell} {m : Memory} :
    Memory.wf (c :: m) ↔ c.2 ≠ Memory.blank ∧ (∀ d ∈ m, c.1 < d.1) ∧ Memory.wf m := by
  simp only [Memory.wf, List.pairwise_cons, List.forall_mem_cons]
  tauto

theorem Memory.wf_tail {c : Host.Cell} {m : Memory} (h : Memory.wf (c :: m)) : Memory.wf m :=
  (Memory.wf_cons.mp h).2.2

/-- A write adds no address but the one it writes. -/
theorem Memory.mem_write {m : Memory} {a : Nat} {b : Byte} {d : Host.Cell} (h : d ∈ Memory.write m a b) :
    d ∈ m ∨ d.1 = a := by
  induction m with
  | nil => simp only [Memory.write] at h; split at h <;> simp_all
  | cons c m ih =>
    simp only [Memory.write] at h
    split at h
    · split at h
      · exact .inl h
      · rcases List.mem_cons.mp h with rfl | h
        · exact .inr rfl
        · exact .inl h
    · split at h
      · split at h
        · exact .inl (List.mem_cons_of_mem _ h)
        · rcases List.mem_cons.mp h with rfl | h
          · exact .inr rfl
          · exact .inl (List.mem_cons_of_mem _ h)
      · rcases List.mem_cons.mp h with rfl | h
        · exact .inl List.mem_cons_self
        · rcases ih h with h | h
          · exact .inl (List.mem_cons_of_mem _ h)
          · exact .inr h

/-- A write keeps the canonical form. -/
theorem Memory.write_wf {m : Memory} (h : m.wf) (a : Nat) (b : Byte) : (Memory.write m a b).wf := by
  induction m with
  | nil =>
    simp only [Memory.write]
    split
    · exact Memory.wf_nil
    · rename_i hb
      simp [Memory.wf, hb]
  | cons c m ih =>
    obtain ⟨hc, hlt, hm⟩ := Memory.wf_cons.mp h
    simp only [Memory.write]
    split
    · rename_i hac
      split
      · exact h
      · rename_i hb
        refine Memory.wf_cons.mpr ⟨hb, ?_, h⟩
        intro d hd
        rcases List.mem_cons.mp hd with rfl | hd
        · exact hac
        · exact lt_trans hac (hlt d hd)
    · split
      · rename_i hac
        split
        · exact hm
        · rename_i hb
          refine Memory.wf_cons.mpr ⟨hb, ?_, hm⟩
          intro d hd
          rw [hac]
          exact hlt d hd
      · rename_i h1 h2
        refine Memory.wf_cons.mpr ⟨hc, ?_, ih hm⟩
        intro d hd
        rcases Memory.mem_write hd with hd | hd
        · exact hlt d hd
        · omega

/-- An address below every entry is unlisted. -/
theorem Memory.read_unlisted {m : Memory} {a : Nat} (h : ∀ d ∈ m, a < d.1) : Memory.read m a = Memory.blank := by
  induction m with
  | nil => rfl
  | cons c m ih =>
    have hc := h c List.mem_cons_self
    simp only [Memory.read]
    rw [if_neg (by omega)]
    exact ih fun d hd => h d (List.mem_cons_of_mem _ hd)

/-- A read after a write to the same address. -/
theorem Memory.read_write_same {m : Memory} (h : m.wf) (a : Nat) (b : Byte) :
    Memory.read (Memory.write m a b) a = b := by
  induction m with
  | nil =>
    simp only [Memory.write]
    split
    · rename_i hb; simp [Memory.read, hb]
    · simp [Memory.read]
  | cons c m ih =>
    obtain ⟨hc, hlt, hm⟩ := Memory.wf_cons.mp h
    simp only [Memory.write]
    split
    · rename_i hac
      split
      · rename_i hb
        rw [hb]
        refine Memory.read_unlisted fun d hd => ?_
        rcases List.mem_cons.mp hd with rfl | hd
        · exact hac
        · exact lt_trans hac (hlt d hd)
      · simp [Memory.read]
    · split
      · rename_i hac
        split
        · rename_i hb
          rw [hb]
          exact Memory.read_unlisted fun d hd => by rw [hac]; exact hlt d hd
        · simp [Memory.read]
      · rename_i h1 h2
        simp only [Memory.read]
        rw [if_neg (by omega)]
        exact ih hm

/-- A write leaves every other address alone. -/
theorem Memory.read_write_other (m : Memory) {a k : Nat} (b : Byte) (h : k ≠ a) :
    Memory.read (Memory.write m a b) k = Memory.read m k := by
  induction m with
  | nil =>
    simp only [Memory.write]
    split
    · rfl
    · simp [Memory.read, h.symm]
  | cons c m ih =>
    simp only [Memory.write]
    split
    · split
      · rfl
      · simp [Memory.read, h.symm]
    · split
      · rename_i hac
        split
        · simp [Memory.read, ← hac, h.symm]
        · simp [Memory.read, ← hac, h.symm]
      · simp only [Memory.read, ih]

theorem Memory.writeBytes_wf {m : Memory} (h : m.wf) (a : Nat) (bs : List Byte) : (Memory.writeBytes m a bs).wf := by
  induction bs generalizing m a with
  | nil => exact h
  | cons b bs ih => exact ih (Memory.write_wf h a b) (a + 1)

theorem Memory.ofBytes_wf (bs : List Byte) : (Memory.ofBytes bs).wf := Memory.writeBytes_wf Memory.wf_nil 0 bs

/-- Addresses outside the bytes written keep their value. -/
theorem Memory.read_writeBytes_outside (m : Memory) (a : Nat) (bs : List Byte) {k : Nat}
    (h : k < a ∨ a + bs.length ≤ k) : Memory.read (Memory.writeBytes m a bs) k = Memory.read m k := by
  induction bs generalizing m a with
  | nil => rfl
  | cons b bs ih =>
    simp only [List.length_cons] at h
    simp only [Memory.writeBytes]
    rw [ih _ _ (by omega)]
    exact Memory.read_write_other m b (by omega)

/-- Byte `i` written is byte `i` read. -/
theorem Memory.read_writeBytes_inside {m : Memory} (hm : m.wf) (a : Nat) (bs : List Byte) {i : Nat}
    (h : i < bs.length) : Memory.read (Memory.writeBytes m a bs) (a + i) = bs[i] := by
  induction bs generalizing m a i with
  | nil => simp at h
  | cons b bs ih =>
    simp only [Memory.writeBytes]
    cases i with
    | zero =>
      rw [Memory.read_writeBytes_outside _ _ _ (by omega)]
      simpa using Memory.read_write_same hm a b
    | succ i =>
      have hi : i < bs.length := by simpa using h
      have := ih (Memory.write_wf hm a b) (a + 1) hi
      rw [show a + 1 + i = a + (i + 1) by omega] at this
      simpa using this

@[simp] theorem Memory.readBytes_length (m : Memory) (a n : Nat) : (Memory.readBytes m a n).length = n := by
  simp [Memory.readBytes]

/-- Reading back what was written. -/
theorem Memory.readBytes_writeBytes {m : Memory} (hm : m.wf) (a : Nat) (bs : List Byte) :
    Memory.readBytes (Memory.writeBytes m a bs) a bs.length = bs := by
  apply List.ext_getElem
  · simp
  · intro i h1 h2
    simp only [Memory.readBytes, List.getElem_map, List.getElem_range]
    exact Memory.read_writeBytes_inside hm a bs h2

/-! ### The array of the simple device -/

theorem programArray_wf {m : Memory} (h : m.wf) (tx : List Byte) (k : Nat) (bs : List Byte) :
    (programArray tx m k bs).wf := by
  induction bs generalizing m k with
  | nil => exact h
  | cons b bs ih => exact ih (Memory.write_wf h _ b) (k + 1)

theorem eraseSector_wf {m : Memory} (h : m.wf) (tx : List Byte) : (eraseSector tx m).wf :=
  ⟨h.1.filter _, fun c hc => h.2 c (List.mem_filter.mp hc).1⟩

end Sys2Proof.Machine
end

