-- ==== Sys2Proof/Laws/Device.lean ====
section
/-! SUPPORT. What the transport can answer: as many bytes as were sent (R122), and the array of the simple device keeps
its canonical form. -/

namespace Sys2Proof.Machine

/-- R122: on success `|rx| = |tx|`, for every transport. -/
theorem Transport.exchange_length {t : Transport} {hist : List Event} {tx rx : List Byte}
    (h : (t.exchange hist tx).1 = some rx) : rx.length = tx.length := by
  cases t with
  | oracle script =>
    match script with
    | [] =>
      simp only [Transport.exchange] at h
      split at h <;> simp_all
      rw [← h]; simp
    | none :: rest => simp [Transport.exchange] at h
    | some bs :: rest =>
      simp only [Transport.exchange, Option.some.injEq] at h
      rw [← h]; simp
  | simple d =>
    simp only [Transport.exchange, Device.exchange] at h
    split at h
    · simp at h
    · simp only [Option.some.injEq] at h
      rw [← h]; simp

theorem Device.does_mem_wf {d : Device} (h : d.mem.wf) (tx : List Byte) : (d.does tx).mem.wf := by
  unfold Device.does Device.afterStatusRead
  repeat' split
  all_goals first
    | exact h
    | exact eraseSector_wf h tx
    | exact programArray_wf h tx 0 _

/-- An exchange keeps the canonical form of the array. -/
theorem Transport.exchange_array_wf {t : Transport} (h : t.array.wf) (hist : List Event) (tx : List Byte) :
    (t.exchange hist tx).2.array.wf := by
  cases t with
  | oracle script =>
    match script with
    | [] => exact Memory.wf_nil
    | none :: rest => exact Memory.wf_nil
    | some bs :: rest => exact Memory.wf_nil
  | simple d =>
    simp only [Transport.exchange, Device.exchange]
    split
    · exact h
    · exact Device.does_mem_wf h tx

end Sys2Proof.Machine
end

