-- ==== Sys2Proof/Laws/State.lean ====
section
/-! SUPPORT. For each shared update of State, what every field of the result is: one lemma per field, so that no later
proof unfolds a record update. -/

namespace Sys2Proof.Machine

/-! ### logged -/

@[simp] theorem logged_cfg (e : Event) (s : State) : (logged e s).cfg = s.cfg := rfl
@[simp] theorem logged_main (e : Event) (s : State) : (logged e s).main = s.main := rfl
@[simp] theorem logged_poll (e : Event) (s : State) : (logged e s).poll = s.poll := rfl
@[simp] theorem logged_xp (e : Event) (s : State) : (logged e s).xp = s.xp := rfl
@[simp] theorem logged_sel (e : Event) (s : State) : (logged e s).sel = s.sel := rfl
@[simp] theorem logged_op (e : Event) (s : State) : (logged e s).op = s.op := rfl
@[simp] theorem logged_addr (e : Event) (s : State) : (logged e s).addr = s.addr := rfl
@[simp] theorem logged_len (e : Event) (s : State) : (logged e s).len = s.len := rfl
@[simp] theorem logged_idx (e : Event) (s : State) : (logged e s).idx = s.idx := rfl
@[simp] theorem logged_pollcnt (e : Event) (s : State) : (logged e s).pollcnt = s.pollcnt := rfl
@[simp] theorem logged_tlim (e : Event) (s : State) : (logged e s).tlim = s.tlim := rfl
@[simp] theorem logged_status (e : Event) (s : State) : (logged e s).status = s.status := rfl
@[simp] theorem logged_result (e : Event) (s : State) : (logged e s).result = s.result := rfl
@[simp] theorem logged_done (e : Event) (s : State) : (logged e s).done = s.done := rfl
@[simp] theorem logged_id0 (e : Event) (s : State) : (logged e s).id0 = s.id0 := rfl
@[simp] theorem logged_id1 (e : Event) (s : State) : (logged e s).id1 = s.id1 := rfl
@[simp] theorem logged_id2 (e : Event) (s : State) : (logged e s).id2 = s.id2 := rfl
@[simp] theorem logged_txd (e : Event) (s : State) : (logged e s).txd = s.txd := rfl
@[simp] theorem logged_rxd (e : Event) (s : State) : (logged e s).rxd = s.rxd := rfl
@[simp] theorem logged_answer (e : Event) (s : State) : (logged e s).answer = s.answer := rfl
@[simp] theorem logged_ending (e : Event) (s : State) : (logged e s).ending = s.ending := rfl
@[simp] theorem logged_trace (e : Event) (s : State) : (logged e s).trace = s.trace ++ [e] := rfl
@[simp] theorem logged_transport (e : Event) (s : State) : (logged e s).transport = s.transport := rfl
@[simp] theorem logged_port (e : Event) (s : State) : (logged e s).port = s.port := rfl
@[simp] theorem logged_resetLine (e : Event) (s : State) : (logged e s).resetLine = s.resetLine := rfl
@[simp] theorem logged_linkHung (e : Event) (s : State) : (logged e s).linkHung = s.linkHung := rfl

/-! ### selReq -/

@[simp] theorem selReq_cfg (s : State) : (selReq s).cfg = s.cfg := rfl
@[simp] theorem selReq_main (s : State) : (selReq s).main = s.main := rfl
@[simp] theorem selReq_poll (s : State) : (selReq s).poll = s.poll := rfl
@[simp] theorem selReq_xp (s : State) : (selReq s).xp = .xchg := rfl
@[simp] theorem selReq_sel (s : State) : (selReq s).sel = true := rfl
@[simp] theorem selReq_op (s : State) : (selReq s).op = s.op := rfl
@[simp] theorem selReq_addr (s : State) : (selReq s).addr = s.addr := rfl
@[simp] theorem selReq_len (s : State) : (selReq s).len = s.len := rfl
@[simp] theorem selReq_idx (s : State) : (selReq s).idx = 0 := rfl
@[simp] theorem selReq_pollcnt (s : State) : (selReq s).pollcnt = s.pollcnt := rfl
@[simp] theorem selReq_tlim (s : State) : (selReq s).tlim = s.tlim := rfl
@[simp] theorem selReq_status (s : State) : (selReq s).status = s.status := rfl
@[simp] theorem selReq_result (s : State) : (selReq s).result = s.result := rfl
@[simp] theorem selReq_done (s : State) : (selReq s).done = s.done := rfl
@[simp] theorem selReq_id0 (s : State) : (selReq s).id0 = s.id0 := rfl
@[simp] theorem selReq_id1 (s : State) : (selReq s).id1 = s.id1 := rfl
@[simp] theorem selReq_id2 (s : State) : (selReq s).id2 = s.id2 := rfl
@[simp] theorem selReq_txd (s : State) : (selReq s).txd = s.txd := rfl
@[simp] theorem selReq_rxd (s : State) : (selReq s).rxd = s.rxd := rfl
@[simp] theorem selReq_answer (s : State) : (selReq s).answer = s.answer := rfl
@[simp] theorem selReq_ending (s : State) : (selReq s).ending = s.ending := rfl
@[simp] theorem selReq_trace (s : State) : (selReq s).trace = s.trace ++ [.sel] := rfl
@[simp] theorem selReq_transport (s : State) : (selReq s).transport = s.transport := rfl
@[simp] theorem selReq_port (s : State) : (selReq s).port = s.port := rfl
@[simp] theorem selReq_resetLine (s : State) : (selReq s).resetLine = s.resetLine := rfl
@[simp] theorem selReq_linkHung (s : State) : (selReq s).linkHung = s.linkHung := rfl

/-! ### xchgReq -/

@[simp] theorem xchgReq_cfg (tx : List Byte) (s : State) : (xchgReq tx s).cfg = s.cfg := rfl
@[simp] theorem xchgReq_main (tx : List Byte) (s : State) : (xchgReq tx s).main = s.main := rfl
@[simp] theorem xchgReq_poll (tx : List Byte) (s : State) : (xchgReq tx s).poll = s.poll := rfl
@[simp] theorem xchgReq_xp (tx : List Byte) (s : State) : (xchgReq tx s).xp = .desel := rfl
@[simp] theorem xchgReq_sel (tx : List Byte) (s : State) : (xchgReq tx s).sel = s.sel := rfl
@[simp] theorem xchgReq_op (tx : List Byte) (s : State) : (xchgReq tx s).op = s.op := rfl
@[simp] theorem xchgReq_addr (tx : List Byte) (s : State) : (xchgReq tx s).addr = s.addr := rfl
@[simp] theorem xchgReq_len (tx : List Byte) (s : State) : (xchgReq tx s).len = s.len := rfl
@[simp] theorem xchgReq_idx (tx : List Byte) (s : State) : (xchgReq tx s).idx = idxAfter s.trace tx (s.transport.exchange s.trace tx).1 := rfl
@[simp] theorem xchgReq_pollcnt (tx : List Byte) (s : State) : (xchgReq tx s).pollcnt = s.pollcnt := rfl
@[simp] theorem xchgReq_tlim (tx : List Byte) (s : State) : (xchgReq tx s).tlim = s.tlim := rfl
@[simp] theorem xchgReq_status (tx : List Byte) (s : State) : (xchgReq tx s).status = s.status := rfl
@[simp] theorem xchgReq_result (tx : List Byte) (s : State) : (xchgReq tx s).result = s.result := rfl
@[simp] theorem xchgReq_done (tx : List Byte) (s : State) : (xchgReq tx s).done = s.done := rfl
@[simp] theorem xchgReq_id0 (tx : List Byte) (s : State) : (xchgReq tx s).id0 = s.id0 := rfl
@[simp] theorem xchgReq_id1 (tx : List Byte) (s : State) : (xchgReq tx s).id1 = s.id1 := rfl
@[simp] theorem xchgReq_id2 (tx : List Byte) (s : State) : (xchgReq tx s).id2 = s.id2 := rfl
@[simp] theorem xchgReq_txd (tx : List Byte) (s : State) : (xchgReq tx s).txd = s.txd := rfl
@[simp] theorem xchgReq_rxd (tx : List Byte) (s : State) : (xchgReq tx s).rxd = s.rxd := rfl
@[simp] theorem xchgReq_answer (tx : List Byte) (s : State) : (xchgReq tx s).answer = (s.transport.exchange s.trace tx).1 := rfl
@[simp] theorem xchgReq_ending (tx : List Byte) (s : State) : (xchgReq tx s).ending = s.ending := rfl
@[simp] theorem xchgReq_trace (tx : List Byte) (s : State) : (xchgReq tx s).trace = s.trace ++ [.xchg tx (s.transport.exchange s.trace tx).1] := rfl
@[simp] theorem xchgReq_transport (tx : List Byte) (s : State) : (xchgReq tx s).transport = (s.transport.exchange s.trace tx).2 := rfl
@[simp] theorem xchgReq_port (tx : List Byte) (s : State) : (xchgReq tx s).port = s.port := rfl
@[simp] theorem xchgReq_resetLine (tx : List Byte) (s : State) : (xchgReq tx s).resetLine = s.resetLine := rfl
@[simp] theorem xchgReq_linkHung (tx : List Byte) (s : State) : (xchgReq tx s).linkHung = s.linkHung := rfl

/-! ### deselReq -/

@[simp] theorem deselReq_cfg (s : State) : (deselReq s).cfg = s.cfg := rfl
@[simp] theorem deselReq_main (s : State) : (deselReq s).main = s.main := rfl
@[simp] theorem deselReq_poll (s : State) : (deselReq s).poll = s.poll := rfl
@[simp] theorem deselReq_xp (s : State) : (deselReq s).xp = .none := rfl
@[simp] theorem deselReq_sel (s : State) : (deselReq s).sel = false := rfl
@[simp] theorem deselReq_op (s : State) : (deselReq s).op = s.op := rfl
@[simp] theorem deselReq_addr (s : State) : (deselReq s).addr = s.addr := rfl
@[simp] theorem deselReq_len (s : State) : (deselReq s).len = s.len := rfl
@[simp] theorem deselReq_idx (s : State) : (deselReq s).idx = s.idx := rfl
@[simp] theorem deselReq_pollcnt (s : State) : (deselReq s).pollcnt = s.pollcnt := rfl
@[simp] theorem deselReq_tlim (s : State) : (deselReq s).tlim = s.tlim := rfl
@[simp] theorem deselReq_status (s : State) : (deselReq s).status = s.status := rfl
@[simp] theorem deselReq_result (s : State) : (deselReq s).result = s.result := rfl
@[simp] theorem deselReq_done (s : State) : (deselReq s).done = s.done := rfl
@[simp] theorem deselReq_id0 (s : State) : (deselReq s).id0 = s.id0 := rfl
@[simp] theorem deselReq_id1 (s : State) : (deselReq s).id1 = s.id1 := rfl
@[simp] theorem deselReq_id2 (s : State) : (deselReq s).id2 = s.id2 := rfl
@[simp] theorem deselReq_txd (s : State) : (deselReq s).txd = s.txd := rfl
@[simp] theorem deselReq_rxd (s : State) : (deselReq s).rxd = s.rxd := rfl
@[simp] theorem deselReq_answer (s : State) : (deselReq s).answer = s.answer := rfl
@[simp] theorem deselReq_ending (s : State) : (deselReq s).ending = s.ending := rfl
@[simp] theorem deselReq_trace (s : State) : (deselReq s).trace = s.trace ++ [.desel] := rfl
@[simp] theorem deselReq_transport (s : State) : (deselReq s).transport = s.transport := rfl
@[simp] theorem deselReq_port (s : State) : (deselReq s).port = s.port := rfl
@[simp] theorem deselReq_resetLine (s : State) : (deselReq s).resetLine = s.resetLine := rfl
@[simp] theorem deselReq_linkHung (s : State) : (deselReq s).linkHung = s.linkHung := rfl

/-! ### delayReq -/

@[simp] theorem delayReq_cfg (n : Nat) (s : State) : (delayReq n s).cfg = s.cfg := rfl
@[simp] theorem delayReq_main (n : Nat) (s : State) : (delayReq n s).main = s.main := rfl
@[simp] theorem delayReq_poll (n : Nat) (s : State) : (delayReq n s).poll = s.poll := rfl
@[simp] theorem delayReq_xp (n : Nat) (s : State) : (delayReq n s).xp = s.xp := rfl
@[simp] theorem delayReq_sel (n : Nat) (s : State) : (delayReq n s).sel = s.sel := rfl
@[simp] theorem delayReq_op (n : Nat) (s : State) : (delayReq n s).op = s.op := rfl
@[simp] theorem delayReq_addr (n : Nat) (s : State) : (delayReq n s).addr = s.addr := rfl
@[simp] theorem delayReq_len (n : Nat) (s : State) : (delayReq n s).len = s.len := rfl
@[simp] theorem delayReq_idx (n : Nat) (s : State) : (delayReq n s).idx = s.idx := rfl
@[simp] theorem delayReq_pollcnt (n : Nat) (s : State) : (delayReq n s).pollcnt = s.pollcnt := rfl
@[simp] theorem delayReq_tlim (n : Nat) (s : State) : (delayReq n s).tlim = s.tlim := rfl
@[simp] theorem delayReq_status (n : Nat) (s : State) : (delayReq n s).status = s.status := rfl
@[simp] theorem delayReq_result (n : Nat) (s : State) : (delayReq n s).result = s.result := rfl
@[simp] theorem delayReq_done (n : Nat) (s : State) : (delayReq n s).done = s.done := rfl
@[simp] theorem delayReq_id0 (n : Nat) (s : State) : (delayReq n s).id0 = s.id0 := rfl
@[simp] theorem delayReq_id1 (n : Nat) (s : State) : (delayReq n s).id1 = s.id1 := rfl
@[simp] theorem delayReq_id2 (n : Nat) (s : State) : (delayReq n s).id2 = s.id2 := rfl
@[simp] theorem delayReq_txd (n : Nat) (s : State) : (delayReq n s).txd = s.txd := rfl
@[simp] theorem delayReq_rxd (n : Nat) (s : State) : (delayReq n s).rxd = s.rxd := rfl
@[simp] theorem delayReq_answer (n : Nat) (s : State) : (delayReq n s).answer = s.answer := rfl
@[simp] theorem delayReq_ending (n : Nat) (s : State) : (delayReq n s).ending = s.ending := rfl
@[simp] theorem delayReq_trace (n : Nat) (s : State) : (delayReq n s).trace = s.trace ++ [.delay n] := rfl
@[simp] theorem delayReq_transport (n : Nat) (s : State) : (delayReq n s).transport = s.transport := rfl
@[simp] theorem delayReq_port (n : Nat) (s : State) : (delayReq n s).port = s.port := rfl
@[simp] theorem delayReq_resetLine (n : Nat) (s : State) : (delayReq n s).resetLine = s.resetLine := rfl
@[simp] theorem delayReq_linkHung (n : Nat) (s : State) : (delayReq n s).linkHung = s.linkHung := rfl

/-! ### endOp -/

@[simp] theorem endOp_cfg (r : Result) (s : State) : (endOp r s).cfg = s.cfg := rfl
@[simp] theorem endOp_main (r : Result) (s : State) : (endOp r s).main = .idle := rfl
@[simp] theorem endOp_poll (r : Result) (s : State) : (endOp r s).poll = .none := rfl
@[simp] theorem endOp_xp (r : Result) (s : State) : (endOp r s).xp = .none := rfl
@[simp] theorem endOp_sel (r : Result) (s : State) : (endOp r s).sel = s.sel := rfl
@[simp] theorem endOp_op (r : Result) (s : State) : (endOp r s).op = s.op := rfl
@[simp] theorem endOp_addr (r : Result) (s : State) : (endOp r s).addr = s.addr := rfl
@[simp] theorem endOp_len (r : Result) (s : State) : (endOp r s).len = s.len := rfl
@[simp] theorem endOp_idx (r : Result) (s : State) : (endOp r s).idx = s.idx := rfl
@[simp] theorem endOp_pollcnt (r : Result) (s : State) : (endOp r s).pollcnt = s.pollcnt := rfl
@[simp] theorem endOp_tlim (r : Result) (s : State) : (endOp r s).tlim = s.tlim := rfl
@[simp] theorem endOp_status (r : Result) (s : State) : (endOp r s).status = s.status := rfl
@[simp] theorem endOp_result (r : Result) (s : State) : (endOp r s).result = r := rfl
@[simp] theorem endOp_done (r : Result) (s : State) : (endOp r s).done = true := rfl
@[simp] theorem endOp_id0 (r : Result) (s : State) : (endOp r s).id0 = s.id0 := rfl
@[simp] theorem endOp_id1 (r : Result) (s : State) : (endOp r s).id1 = s.id1 := rfl
@[simp] theorem endOp_id2 (r : Result) (s : State) : (endOp r s).id2 = s.id2 := rfl
@[simp] theorem endOp_txd (r : Result) (s : State) : (endOp r s).txd = s.txd := rfl
@[simp] theorem endOp_rxd (r : Result) (s : State) : (endOp r s).rxd = s.rxd := rfl
@[simp] theorem endOp_answer (r : Result) (s : State) : (endOp r s).answer = none := rfl
@[simp] theorem endOp_ending (r : Result) (s : State) : (endOp r s).ending = none := rfl
@[simp] theorem endOp_trace (r : Result) (s : State) : (endOp r s).trace = s.trace := rfl
@[simp] theorem endOp_transport (r : Result) (s : State) : (endOp r s).transport = s.transport := rfl
@[simp] theorem endOp_port (r : Result) (s : State) : (endOp r s).port = s.port := rfl
@[simp] theorem endOp_resetLine (r : Result) (s : State) : (endOp r s).resetLine = s.resetLine := rfl
@[simp] theorem endOp_linkHung (r : Result) (s : State) : (endOp r s).linkHung = s.linkHung := rfl

/-! ### endDue -/

@[simp] theorem endDue_cfg (r : Result) (s : State) : (endDue r s).cfg = s.cfg := rfl
@[simp] theorem endDue_main (r : Result) (s : State) : (endDue r s).main = s.main := rfl
@[simp] theorem endDue_poll (r : Result) (s : State) : (endDue r s).poll = .none := rfl
@[simp] theorem endDue_xp (r : Result) (s : State) : (endDue r s).xp = .none := rfl
@[simp] theorem endDue_sel (r : Result) (s : State) : (endDue r s).sel = s.sel := rfl
@[simp] theorem endDue_op (r : Result) (s : State) : (endDue r s).op = s.op := rfl
@[simp] theorem endDue_addr (r : Result) (s : State) : (endDue r s).addr = s.addr := rfl
@[simp] theorem endDue_len (r : Result) (s : State) : (endDue r s).len = s.len := rfl
@[simp] theorem endDue_idx (r : Result) (s : State) : (endDue r s).idx = s.idx := rfl
@[simp] theorem endDue_pollcnt (r : Result) (s : State) : (endDue r s).pollcnt = s.pollcnt := rfl
@[simp] theorem endDue_tlim (r : Result) (s : State) : (endDue r s).tlim = s.tlim := rfl
@[simp] theorem endDue_status (r : Result) (s : State) : (endDue r s).status = s.status := rfl
@[simp] theorem endDue_result (r : Result) (s : State) : (endDue r s).result = s.result := rfl
@[simp] theorem endDue_done (r : Result) (s : State) : (endDue r s).done = s.done := rfl
@[simp] theorem endDue_id0 (r : Result) (s : State) : (endDue r s).id0 = s.id0 := rfl
@[simp] theorem endDue_id1 (r : Result) (s : State) : (endDue r s).id1 = s.id1 := rfl
@[simp] theorem endDue_id2 (r : Result) (s : State) : (endDue r s).id2 = s.id2 := rfl
@[simp] theorem endDue_txd (r : Result) (s : State) : (endDue r s).txd = s.txd := rfl
@[simp] theorem endDue_rxd (r : Result) (s : State) : (endDue r s).rxd = s.rxd := rfl
@[simp] theorem endDue_answer (r : Result) (s : State) : (endDue r s).answer = s.answer := rfl
@[simp] theorem endDue_ending (r : Result) (s : State) : (endDue r s).ending = some r := rfl
@[simp] theorem endDue_trace (r : Result) (s : State) : (endDue r s).trace = s.trace := rfl
@[simp] theorem endDue_transport (r : Result) (s : State) : (endDue r s).transport = s.transport := rfl
@[simp] theorem endDue_port (r : Result) (s : State) : (endDue r s).port = s.port := rfl
@[simp] theorem endDue_resetLine (r : Result) (s : State) : (endDue r s).resetLine = s.resetLine := rfl
@[simp] theorem endDue_linkHung (r : Result) (s : State) : (endDue r s).linkHung = s.linkHung := rfl

/-! ### nextPoll -/

@[simp] theorem nextPoll_cfg (s : State) : (nextPoll s).cfg = s.cfg := rfl
@[simp] theorem nextPoll_main (s : State) : (nextPoll s).main = s.main := rfl
@[simp] theorem nextPoll_poll (s : State) : (nextPoll s).poll = .read := rfl
@[simp] theorem nextPoll_xp (s : State) : (nextPoll s).xp = .sel := rfl
@[simp] theorem nextPoll_sel (s : State) : (nextPoll s).sel = s.sel := rfl
@[simp] theorem nextPoll_op (s : State) : (nextPoll s).op = s.op := rfl
@[simp] theorem nextPoll_addr (s : State) : (nextPoll s).addr = s.addr := rfl
@[simp] theorem nextPoll_len (s : State) : (nextPoll s).len = s.len := rfl
@[simp] theorem nextPoll_idx (s : State) : (nextPoll s).idx = s.idx := rfl
@[simp] theorem nextPoll_pollcnt (s : State) : (nextPoll s).pollcnt = s.pollcnt + 1 := rfl
@[simp] theorem nextPoll_tlim (s : State) : (nextPoll s).tlim = s.tlim := rfl
@[simp] theorem nextPoll_status (s : State) : (nextPoll s).status = s.status := rfl
@[simp] theorem nextPoll_result (s : State) : (nextPoll s).result = s.result := rfl
@[simp] theorem nextPoll_done (s : State) : (nextPoll s).done = s.done := rfl
@[simp] theorem nextPoll_id0 (s : State) : (nextPoll s).id0 = s.id0 := rfl
@[simp] theorem nextPoll_id1 (s : State) : (nextPoll s).id1 = s.id1 := rfl
@[simp] theorem nextPoll_id2 (s : State) : (nextPoll s).id2 = s.id2 := rfl
@[simp] theorem nextPoll_txd (s : State) : (nextPoll s).txd = s.txd := rfl
@[simp] theorem nextPoll_rxd (s : State) : (nextPoll s).rxd = s.rxd := rfl
@[simp] theorem nextPoll_answer (s : State) : (nextPoll s).answer = s.answer := rfl
@[simp] theorem nextPoll_ending (s : State) : (nextPoll s).ending = s.ending := rfl
@[simp] theorem nextPoll_trace (s : State) : (nextPoll s).trace = s.trace := rfl
@[simp] theorem nextPoll_transport (s : State) : (nextPoll s).transport = s.transport := rfl
@[simp] theorem nextPoll_port (s : State) : (nextPoll s).port = s.port := rfl
@[simp] theorem nextPoll_resetLine (s : State) : (nextPoll s).resetLine = s.resetLine := rfl
@[simp] theorem nextPoll_linkHung (s : State) : (nextPoll s).linkHung = s.linkHung := rfl

/-! ### takeRequest -/

@[simp] theorem takeRequest_cfg (r : Request) (rest : List Request) (s : State) : (takeRequest r rest s).cfg = s.cfg := rfl
@[simp] theorem takeRequest_main (r : Request) (rest : List Request) (s : State) : (takeRequest r rest s).main = s.main := rfl
@[simp] theorem takeRequest_poll (r : Request) (rest : List Request) (s : State) : (takeRequest r rest s).poll = s.poll := rfl
@[simp] theorem takeRequest_xp (r : Request) (rest : List Request) (s : State) : (takeRequest r rest s).xp = s.xp := rfl
@[simp] theorem takeRequest_sel (r : Request) (rest : List Request) (s : State) : (takeRequest r rest s).sel = s.sel := rfl
@[simp] theorem takeRequest_op (r : Request) (rest : List Request) (s : State) : (takeRequest r rest s).op = s.op := rfl
@[simp] theorem takeRequest_addr (r : Request) (rest : List Request) (s : State) : (takeRequest r rest s).addr = s.addr := rfl
@[simp] theorem takeRequest_len (r : Request) (rest : List Request) (s : State) : (takeRequest r rest s).len = s.len := rfl
@[simp] theorem takeRequest_idx (r : Request) (rest : List Request) (s : State) : (takeRequest r rest s).idx = s.idx := rfl
@[simp] theorem takeRequest_pollcnt (r : Request) (rest : List Request) (s : State) : (takeRequest r rest s).pollcnt = s.pollcnt := rfl
@[simp] theorem takeRequest_tlim (r : Request) (rest : List Request) (s : State) : (takeRequest r rest s).tlim = s.tlim := rfl
@[simp] theorem takeRequest_status (r : Request) (rest : List Request) (s : State) : (takeRequest r rest s).status = s.status := rfl
@[simp] theorem takeRequest_result (r : Request) (rest : List Request) (s : State) : (takeRequest r rest s).result = s.result := rfl
@[simp] theorem takeRequest_done (r : Request) (rest : List Request) (s : State) : (takeRequest r rest s).done = s.done := rfl
@[simp] theorem takeRequest_id0 (r : Request) (rest : List Request) (s : State) : (takeRequest r rest s).id0 = s.id0 := rfl
@[simp] theorem takeRequest_id1 (r : Request) (rest : List Request) (s : State) : (takeRequest r rest s).id1 = s.id1 := rfl
@[simp] theorem takeRequest_id2 (r : Request) (rest : List Request) (s : State) : (takeRequest r rest s).id2 = s.id2 := rfl
@[simp] theorem takeRequest_txd (r : Request) (rest : List Request) (s : State) : (takeRequest r rest s).txd = Memory.ofBytes r.txd := rfl
@[simp] theorem takeRequest_rxd (r : Request) (rest : List Request) (s : State) : (takeRequest r rest s).rxd = s.rxd := rfl
@[simp] theorem takeRequest_answer (r : Request) (rest : List Request) (s : State) : (takeRequest r rest s).answer = s.answer := rfl
@[simp] theorem takeRequest_ending (r : Request) (rest : List Request) (s : State) : (takeRequest r rest s).ending = s.ending := rfl
@[simp] theorem takeRequest_trace (r : Request) (rest : List Request) (s : State) : (takeRequest r rest s).trace = s.trace := rfl
@[simp] theorem takeRequest_transport (r : Request) (rest : List Request) (s : State) : (takeRequest r rest s).transport = s.transport := rfl
@[simp] theorem takeRequest_port (r : Request) (rest : List Request) (s : State) : (takeRequest r rest s).port = rest := rfl
@[simp] theorem takeRequest_resetLine (r : Request) (rest : List Request) (s : State) : (takeRequest r rest s).resetLine = s.resetLine := rfl
@[simp] theorem takeRequest_linkHung (r : Request) (rest : List Request) (s : State) : (takeRequest r rest s).linkHung = s.linkHung := rfl

/-! ### blockReset -/

@[simp] theorem blockReset_cfg (s : State) : (blockReset s).cfg = s.cfg := rfl
@[simp] theorem blockReset_main (s : State) : (blockReset s).main = .idle := rfl
@[simp] theorem blockReset_poll (s : State) : (blockReset s).poll = .none := rfl
@[simp] theorem blockReset_xp (s : State) : (blockReset s).xp = .none := rfl
@[simp] theorem blockReset_sel (s : State) : (blockReset s).sel = false := rfl
@[simp] theorem blockReset_op (s : State) : (blockReset s).op = 0 := rfl
@[simp] theorem blockReset_addr (s : State) : (blockReset s).addr = 0 := rfl
@[simp] theorem blockReset_len (s : State) : (blockReset s).len = 0 := rfl
@[simp] theorem blockReset_idx (s : State) : (blockReset s).idx = 0 := rfl
@[simp] theorem blockReset_pollcnt (s : State) : (blockReset s).pollcnt = 0 := rfl
@[simp] theorem blockReset_tlim (s : State) : (blockReset s).tlim = 0 := rfl
@[simp] theorem blockReset_status (s : State) : (blockReset s).status = 0 := rfl
@[simp] theorem blockReset_result (s : State) : (blockReset s).result = .success := rfl
@[simp] theorem blockReset_done (s : State) : (blockReset s).done = false := rfl
@[simp] theorem blockReset_id0 (s : State) : (blockReset s).id0 = 0 := rfl
@[simp] theorem blockReset_id1 (s : State) : (blockReset s).id1 = 0 := rfl
@[simp] theorem blockReset_id2 (s : State) : (blockReset s).id2 = 0 := rfl
@[simp] theorem blockReset_txd (s : State) : (blockReset s).txd = s.txd := rfl
@[simp] theorem blockReset_rxd (s : State) : (blockReset s).rxd = s.rxd := rfl
@[simp] theorem blockReset_answer (s : State) : (blockReset s).answer = none := rfl
@[simp] theorem blockReset_ending (s : State) : (blockReset s).ending = none := rfl
@[simp] theorem blockReset_trace (s : State) : (blockReset s).trace = s.trace ++ [.blockReset] := rfl
@[simp] theorem blockReset_transport (s : State) : (blockReset s).transport = s.transport := rfl
@[simp] theorem blockReset_port (s : State) : (blockReset s).port = s.port := rfl
@[simp] theorem blockReset_resetLine (s : State) : (blockReset s).resetLine = false := rfl
@[simp] theorem blockReset_linkHung (s : State) : (blockReset s).linkHung = s.linkHung := rfl

/-! ### enter: only STATE, TLIM and POLLCNT change -/

/-- Entering a wait phase (R194). -/
theorem enter_wait {m : Main} {s : State} {t : Millis} (h : waitLimit s.cfg m = some t) :
    enter m s = { s with main := m, tlim := t, pollcnt := 0, poll := .read, xp := .sel } := by
  simp [enter, h]

/-- Entering any other phase (R192, R193). -/
theorem enter_other {m : Main} {s : State} (h : waitLimit s.cfg m = none) :
    enter m s = { s with main := m, poll := .none, xp := if isDelay m then .none else .sel } := by
  simp [enter, h]

@[simp] theorem enter_cfg (m : Main) (s : State) : (enter m s).cfg = s.cfg := by
  unfold enter; split <;> rfl
@[simp] theorem enter_main (m : Main) (s : State) : (enter m s).main = m := by
  unfold enter; split <;> rfl
@[simp] theorem enter_sel (m : Main) (s : State) : (enter m s).sel = s.sel := by
  unfold enter; split <;> rfl
@[simp] theorem enter_op (m : Main) (s : State) : (enter m s).op = s.op := by
  unfold enter; split <;> rfl
@[simp] theorem enter_addr (m : Main) (s : State) : (enter m s).addr = s.addr := by
  unfold enter; split <;> rfl
@[simp] theorem enter_len (m : Main) (s : State) : (enter m s).len = s.len := by
  unfold enter; split <;> rfl
@[simp] theorem enter_idx (m : Main) (s : State) : (enter m s).idx = s.idx := by
  unfold enter; split <;> rfl
@[simp] theorem enter_status (m : Main) (s : State) : (enter m s).status = s.status := by
  unfold enter; split <;> rfl
@[simp] theorem enter_result (m : Main) (s : State) : (enter m s).result = s.result := by
  unfold enter; split <;> rfl
@[simp] theorem enter_done (m : Main) (s : State) : (enter m s).done = s.done := by
  unfold enter; split <;> rfl
@[simp] theorem enter_id0 (m : Main) (s : State) : (enter m s).id0 = s.id0 := by
  unfold enter; split <;> rfl
@[simp] theorem enter_id1 (m : Main) (s : State) : (enter m s).id1 = s.id1 := by
  unfold enter; split <;> rfl
@[simp] theorem enter_id2 (m : Main) (s : State) : (enter m s).id2 = s.id2 := by
  unfold enter; split <;> rfl
@[simp] theorem enter_txd (m : Main) (s : State) : (enter m s).txd = s.txd := by
  unfold enter; split <;> rfl
@[simp] theorem enter_rxd (m : Main) (s : State) : (enter m s).rxd = s.rxd := by
  unfold enter; split <;> rfl
@[simp] theorem enter_answer (m : Main) (s : State) : (enter m s).answer = s.answer := by
  unfold enter; split <;> rfl
@[simp] theorem enter_ending (m : Main) (s : State) : (enter m s).ending = s.ending := by
  unfold enter; split <;> rfl
@[simp] theorem enter_trace (m : Main) (s : State) : (enter m s).trace = s.trace := by
  unfold enter; split <;> rfl
@[simp] theorem enter_transport (m : Main) (s : State) : (enter m s).transport = s.transport := by
  unfold enter; split <;> rfl
@[simp] theorem enter_port (m : Main) (s : State) : (enter m s).port = s.port := by
  unfold enter; split <;> rfl
@[simp] theorem enter_resetLine (m : Main) (s : State) : (enter m s).resetLine = s.resetLine := by
  unfold enter; split <;> rfl
@[simp] theorem enter_linkHung (m : Main) (s : State) : (enter m s).linkHung = s.linkHung := by
  unfold enter; split <;> rfl

/-! ### lengthChecked -/

/-- The length check passed: the first phase (R216). -/
theorem lengthChecked_ok {r : Result} {m : Main} {s : State} (h : tooLong s.cfg s.len = false) :
    lengthChecked r m s = enter m s := by
  simp [lengthChecked, h]

/-- The length check failed: the end is due, and no request is made (R216). -/
theorem lengthChecked_rejects {r : Result} {m : Main} {s : State} (h : tooLong s.cfg s.len = true) :
    lengthChecked r m s = endDue r { s with main := m } := by
  simp [lengthChecked, h]

end Sys2Proof.Machine
end

