-- ==== Sys2Proof/Laws/Ops.lean ====
section
/-! SUPPORT. What each shared operation can do, said once: "if it answers next t, then one of these". Later proofs cite
these and do not unfold the operation. -/

namespace Sys2Proof.Machine

variable {s t : State}

/-! ### Conditions -/

theorem isIdle_iff :
    isIdle s = true ↔ s.main = .idle ∧ s.poll = .none ∧ s.xp = .none ∧ s.ending = none := by
  simp [isIdle, and_assoc]

theorem atPhase_iff {m : Main} : atPhase m s = true ↔ s.main = m ∧ s.poll = .none ∧ s.ending = none := by
  simp [atPhase, and_assoc]

theorem usesHandshake_iff {op : BitVec 3} : usesHandshake op = true ↔ op = 2 ∨ op = 3 ∨ op = 4 := by
  simp only [usesHandshake, Bool.or_eq_true, decide_eq_true_eq, or_assoc]
  exact Iff.rfl

theorem frameFits_iff {c : Cfg} {tx : List Byte} : frameFits c tx = true ↔ tx.length ≤ c.pageSize + 4 := by
  simp [frameFits, Config.hdr]

theorem tooLong_eq_false {c : Cfg} {n : Len} : tooLong c n = false ↔ n.toNat ≤ c.pageSize := by
  simp [tooLong]

theorem expired_iff : expired s = true ↔ s.tlim ≤ s.pollcnt := by simp [expired]

theorem isWait_iff {c : Cfg} {m : Main} : isWait m = true ↔ ∃ l, waitLimit c m = some l := by
  cases m <;> simp [isWait, waitLimit]

/-- While a transaction is in progress `XP` may be at any of its places. -/
theorem tripleOk_active {m : Main} {p : Poll} {x y : Xp} {due : Bool} {op : BitVec 3}
    (h : tripleOk m p x due op = true) (hx : x ≠ .none) (hy : y ≠ .none) : tripleOk m p y due op = true := by
  simp [tripleOk, hx, hy] at *
  exact h

/-- While a transaction is in progress, or a delay is next, no end is due. -/
theorem ending_of_active (h : phaseOk s = true) (hx : s.xp ≠ .none ∨ s.poll ≠ .none ∨ isDelay s.main = true) :
    s.ending = none := by
  cases he : s.ending with
  | none => rfl
  | some r =>
    simp only [phaseOk, tripleOk, he, Option.isSome_some, Bool.not_true, Bool.and_false, if_true] at h
    split at h
    · cases h
    · split at h
      · cases h
      · simp_all

/-- When the end is due, the phase's activity is over and it is no idle or delay phase. -/
theorem phaseOk_due {r : Result} (h : phaseOk s = true) (he : s.ending = some r) :
    s.main ≠ .idle ∧ isDelay s.main = false ∧ s.poll = .none ∧ s.xp = .none := by
  simp only [phaseOk, tripleOk, he, Option.isSome_some, Bool.not_true, Bool.and_false, if_true] at h
  split at h
  · cases h
  · split at h
    · cases h
    · simp_all

/-! ### Transactions -/

/-- Everything a step of the transaction sub-machine can do (R193). -/
theorem command_next {here : Bool} {tx : List Byte} {report : Option (List Byte) → State → State}
    (h : command here tx report s = .next t) :
    here = true ∧ s.linkHung = false ∧ tx.length ≤ s.cfg.pageSize + 4 ∧
      ((s.xp = .sel ∧ t = selReq s) ∨ (s.xp = .xchg ∧ t = xchgReq tx s) ∨
        (s.xp = .desel ∧ t = report s.answer (deselReq s))) := by
  unfold command at h
  split at h
  · cases h
  · split at h
    · cases h
    · split at h
      · cases h
      · rename_i h1 h2 h3
        refine ⟨by simpa using h1, by simpa using h2, frameFits_iff.mp (by simpa using h3), ?_⟩
        split at h
        · cases h
        · exact .inl ⟨‹_›, by cases h; rfl⟩
        · exact .inr (.inl ⟨‹_›, by cases h; rfl⟩)
        · exact .inr (.inr ⟨‹_›, by cases h; rfl⟩)

section
variable {here : Bool} {tx : List Byte} {report : Option (List Byte) → State → State}

theorem command_elsewhere (h : here = false) : command here tx report s = .refused .commandOutOfPhase := by
  simp [command, h]

theorem command_hung (h : here = true) (hh : s.linkHung = true) :
    command here tx report s = .fault .transportNeverReturns := by
  simp [command, h, hh]

variable (h : here = true) (hh : s.linkHung = false) (hf : tx.length ≤ s.cfg.pageSize + 4)
include h hh hf

theorem command_sel (hx : s.xp = .sel) : command here tx report s = .next (selReq s) := by
  simp [command, h, hh, frameFits_iff.mpr hf, hx]

theorem command_xchg (hx : s.xp = .xchg) : command here tx report s = .next (xchgReq tx s) := by
  simp [command, h, hh, frameFits_iff.mpr hf, hx]

theorem command_desel (hx : s.xp = .desel) :
    command here tx report s = .next (report s.answer (deselReq s)) := by
  simp [command, h, hh, frameFits_iff.mpr hf, hx]

end

@[simp] theorem orTransportError_none (go : List Byte → State → State) :
    orTransportError go none s = endDue .transportError s := rfl

@[simp] theorem orTransportError_some (go : List Byte → State → State) (rx : List Byte) :
    orTransportError go (some rx) s = go rx s := rfl

/-! ### Starts and delays -/

/-- Everything a start can do (R175). -/
theorem startOp_next {op : BitVec 3} {first : State → State} (h : startOp op first s = .next t) :
    isIdle s = true ∧ t = first { s with op := op, done := false } := by
  unfold startOp at h
  split at h
  · exact ⟨‹_›, by cases h; rfl⟩
  · cases h

theorem startOp_idle {op : BitVec 3} {first : State → State} (h : isIdle s = true) :
    startOp op first s = .next (first { s with op := op, done := false }) := by
  simp [startOp, h]

theorem startOp_busy {op : BitVec 3} {first : State → State} (h : isIdle s = false) :
    startOp op first s = .refused .startWhileBusy := by
  simp [startOp, h]

/-- Everything a delay can do (R123). -/
theorem delayStep_next {n : Nat} {go : State → State} (h : delayStep n go s = .next t) :
    s.linkHung = false ∧ t = go (delayReq n s) := by
  unfold delayStep at h
  split at h
  · cases h
  · rename_i hh
    exact ⟨by simpa using hh, by cases h; rfl⟩

theorem delayStep_runs {n : Nat} {go : State → State} (h : s.linkHung = false) :
    delayStep n go s = .next (go (delayReq n s)) := by
  simp [delayStep, h]

/-! ### Traces -/

@[simp] theorem bracketOf_append (tr : List Event) (e : Event) :
    bracketOf (tr ++ [e]) = (bracketOf tr).bind fun b => b.next e := by
  simp [bracketOf]

@[simp] theorem gateOf_append (tr : List Event) (e : Event) : gateOf (tr ++ [e]) = (gateOf tr).next e := by
  simp [gateOf]

/-! ### Runs -/

theorem steps_add (m n : Nat) (s : State) :
    steps (m + n) s =
      match steps m s with
      | .next t => steps n t
      | .fault r => .fault r
      | .refused r => .refused r := by
  induction m generalizing s with
  | zero => simp [steps]
  | succ m ih =>
    rw [Nat.add_right_comm]
    simp only [steps]
    cases step s with
    | next t => exact ih t
    | fault r => rfl
    | refused r => rfl

/-- Runs compose. -/
theorem steps_trans {m n : Nat} {u : State} (h : steps m s = .next t) (h' : steps n t = .next u) :
    steps (m + n) s = .next u := by
  rw [steps_add, h]; exact h'

/-- The runs of the claims are the host's runs. -/
theorem steps_eq_run (n : Nat) (s : State) : steps n s = Host.Core.run Sys2Proof.core n s := by
  induction n generalizing s with
  | zero => rfl
  | succ n ih =>
    have h : Sys2Proof.core.step s = step s := rfl
    simp only [steps, Host.Core.run, h]
    cases step s with
    | next t => exact ih t
    | fault r => rfl
    | refused r => rfl

end Sys2Proof.Machine
end

