-- ==== Sys2Proof/Laws/Commands.lean ====
section
/-! SUPPORT. The wire commands and the step, each said once: every emitted command is one transaction with a frame and a
report; everything a status read can do; everything a step can do. -/

namespace Sys2Proof.Machine

variable {s t : State}

/-! ### Every emitted command is one transaction -/

/-- The test an emitted command makes of its phase. -/
def guardOf (i : Instr) (s : State) : Bool :=
  match i with
  | .rsten => atPhase .rstEn s
  | .rst => atPhase .rstCmd s
  | .rdid => atPhase .id s
  | .rdsr => readsStatus s
  | .wren => atPhase .weCmd s
  | .se _ => atPhase .erCmd s
  | .pp _ _ => atPhase .ppCmd s
  | .rd _ _ => atPhase .rdCmd s
  | .wrsr | .wrdi | .rstff => false
  | .reset | .readJedecID | .writeEnable | .sectorErase _ | .pageProgram _ _ | .read _ _ => false

/-- What an emitted command does with the bytes received. -/
def goOf (i : Instr) : List Byte → State → State :=
  match i with
  | .rsten => fun _ => enter .rstGap
  | .rst => fun _ => enter .rstSettle
  | .rdid => identified
  | .rdsr => statusRead
  | .wren => fun _ => enter .weWait2
  | .se _ => fun _ => enter .erWait
  | .pp _ _ => fun _ => enter .ppWait
  | .rd _ n => dataRead n.toNat
  | .wrsr | .wrdi | .rstff => fun _ s => s
  | .reset | .readJedecID | .writeEnable | .sectorErase _ | .pageProgram _ _ | .read _ _ => fun _ s => s

theorem exec_eq_command {i : Instr} (h : isEmitted i = true) (s : State) :
    exec i s = command (guardOf i s) (frameOf s.cfg i) (orTransportError (goOf i)) s := by
  cases i <;> first | rfl | simp [isEmitted] at h

theorem readsStatus_iff :
    readsStatus s = true ↔ s.ending = none ∧
      ((isWait s.main = true ∧ s.poll = .read) ∨
        (s.main = .weVerify ∧ s.poll = .none ∧ (s.op = 2 ∨ s.op = 3 ∨ s.op = 4)) ∨
        (s.main = .rdCheck ∧ s.poll = .none)) := by
  simp only [readsStatus, Bool.or_eq_true, Bool.and_eq_true, decide_eq_true_eq, atPhase_iff, usesHandshake_iff]
  tauto

theorem guardOf_iff {i : Instr} : guardOf i s = true ↔ inItsPhase i s := by
  cases i
  case rdsr => exact readsStatus_iff
  all_goals first
    | (simp only [guardOf, inItsPhase, atPhase_iff]; tauto)

theorem isEmitted_of_inItsPhase {i : Instr} (h : inItsPhase i s) : isEmitted i = true := by
  cases i <;> first | rfl | exact h.2.elim

theorem frameOf_length_pos {i : Instr} (h : isEmitted i = true) (c : Cfg) : 0 < (frameOf c i).length := by
  cases i <;> simp_all [frameOf, isEmitted]

/-- Everything an emitted command can do. -/
theorem exec_command_next {i : Instr} (hi : isEmitted i = true) (h : exec i s = .next t) :
    CanRun i s ∧
      ((s.xp = .sel ∧ t = selReq s) ∨ (s.xp = .xchg ∧ t = xchgReq (frameOf s.cfg i) s) ∨
        (s.xp = .desel ∧ s.answer = none ∧ t = endDue .transportError (deselReq s)) ∨
        (s.xp = .desel ∧ ∃ rx, s.answer = some rx ∧ t = goOf i rx (deselReq s))) := by
  rw [exec_eq_command hi] at h
  obtain ⟨hg, hh, hf, h⟩ := command_next h
  refine ⟨⟨guardOf_iff.mp hg, hh, hf⟩, ?_⟩
  rcases h with h | h | ⟨hx, h⟩
  · exact .inl h
  · exact .inr (.inl h)
  · cases ha : s.answer with
    | none => exact .inr (.inr (.inl ⟨hx, rfl, by rw [h, ha]; rfl⟩))
    | some rx => exact .inr (.inr (.inr ⟨hx, rx, rfl, by rw [h, ha]; rfl⟩))

theorem exec_sel {i : Instr} (h : CanRun i s) (hx : s.xp = .sel) : exec i s = .next (selReq s) := by
  rw [exec_eq_command (isEmitted_of_inItsPhase h.1)]
  exact command_sel (guardOf_iff.mpr h.1) h.2.1 h.2.2 hx

theorem exec_xchg {i : Instr} (h : CanRun i s) (hx : s.xp = .xchg) :
    exec i s = .next (xchgReq (frameOf s.cfg i) s) := by
  rw [exec_eq_command (isEmitted_of_inItsPhase h.1)]
  exact command_xchg (guardOf_iff.mpr h.1) h.2.1 h.2.2 hx

theorem exec_desel {i : Instr} (h : CanRun i s) (hx : s.xp = .desel) :
    exec i s = .next (orTransportError (goOf i) s.answer (deselReq s)) := by
  rw [exec_eq_command (isEmitted_of_inItsPhase h.1)]
  exact command_desel (guardOf_iff.mpr h.1) h.2.1 h.2.2 hx

/-! ### A status read -/

/-- Everything a completed status read can do (R142, R144, R147, R172), after `STATUS` has taken the byte. -/
inductive AfterStatus (s : State) : State → Prop where
  | toCommand : s.main = .weWait1 → busy s.status = false → AfterStatus s (enter .weCmd s)
  | toVerify : s.main = .weWait2 → busy s.status = false → AfterStatus s (enter .weVerify s)
  | waitDone : s.main ≠ .weWait1 → s.main ≠ .weWait2 → s.main ≠ .weVerify → s.main ≠ .rdCheck →
      busy s.status = false → AfterStatus s (endDue .success s)
  | timeout : s.main ≠ .weVerify → s.main ≠ .rdCheck → busy s.status = true → s.tlim ≤ s.pollcnt →
      AfterStatus s (endDue .timeout s)
  | pace : s.main ≠ .weVerify → s.main ≠ .rdCheck → busy s.status = true → s.pollcnt < s.tlim →
      AfterStatus s { s with poll := .delay, xp := .none }
  | noLatch : s.main = .weVerify → wel s.cfg s.status = false → AfterStatus s (endDue .writeEnableFailed s)
  | toErase : s.main = .weVerify → wel s.cfg s.status = true → s.op = 3 → AfterStatus s (enter .erCmd s)
  | toProgram : s.main = .weVerify → wel s.cfg s.status = true → s.op = 4 → AfterStatus s (enter .ppCmd s)
  | enabled : s.main = .weVerify → wel s.cfg s.status = true → s.op ≠ 3 → s.op ≠ 4 →
      AfterStatus s (endDue .success s)
  | deviceBusy : s.main = .rdCheck → busy s.status = true → AfterStatus s (endDue .busy s)
  | toRead : s.main = .rdCheck → busy s.status = false → AfterStatus s (enter .rdCmd s)

theorem afterStatus_polled (h1 : s.main ≠ .weVerify) (h2 : s.main ≠ .rdCheck) : AfterStatus s (polled s) := by
  unfold polled
  split
  · rename_i hb
    have hb : busy s.status = false := by simpa using hb
    by_cases hm : s.main = .weWait1
    · have : waitReported .success s = enter .weCmd s := by simp [waitReported, hm]
      rw [this]; exact .toCommand hm hb
    · by_cases hm' : s.main = .weWait2
      · have : waitReported .success s = enter .weVerify s := by simp [waitReported, hm']
        rw [this]; exact .toVerify hm' hb
      · have : waitReported .success s = endDue .success s := by
          simp only [waitReported, if_true]
          split <;> first | rfl | contradiction
        rw [this]; exact .waitDone hm hm' h1 h2 hb
  · rename_i hb
    have hb : busy s.status = true := by simpa using hb
    split
    · rename_i he
      have : waitReported .timeout s = endDue .timeout s := by simp [waitReported]
      rw [this]; exact .timeout h1 h2 hb (expired_iff.mp he)
    · rename_i he
      exact .pace h1 h2 hb (by simpa [expired] using he)

theorem afterStatus_verified (h : s.main = .weVerify) : AfterStatus s (verified s) := by
  unfold verified
  split
  · rename_i hw
    exact .noLatch h (by simpa using hw)
  · rename_i hw
    have hw : wel s.cfg s.status = true := by simpa using hw
    split
    · exact .toErase h hw ‹_›
    · split
      · exact .toProgram h hw ‹_›
      · exact .enabled h hw ‹_› ‹_›

theorem afterStatus_checked (h : s.main = .rdCheck) : AfterStatus s (checked s) := by
  unfold checked
  split
  · exact .deviceBusy h ‹_›
  · rename_i hb
    exact .toRead h (by simpa using hb)

/-- A completed status read, in any phase. -/
theorem statusRead_after (rx : List Byte) (s : State) :
    AfterStatus { s with status := rxStatus rx } (statusRead rx s) := by
  unfold statusRead
  split
  · exact afterStatus_verified ‹_›
  · exact afterStatus_checked ‹_›
  all_goals exact afterStatus_polled (by simp_all) (by simp_all)

/-! ### The step -/

theorem step_reset (h : s.resetLine = true) : step s = .next (blockReset s) := by
  simp [step, activity, h]

theorem phaseOk_of_isIdle (h : isIdle s = true) : phaseOk s = true := by
  obtain ⟨h1, h2, h3, h4⟩ := isIdle_iff.mp h
  simp [phaseOk, tripleOk, h1, h2, h3, h4]

theorem isIdle_of_phaseOk (h : phaseOk s = true) (hm : s.main = .idle) : isIdle s = true := by
  simp [phaseOk, tripleOk, hm] at h
  exact isIdle_iff.mpr ⟨hm, h.1.1, h.1.2, h.2⟩

/-- The end of an operation is a step of its own (R191). -/
theorem step_end {r : Result} (hr : s.resetLine = false) (h : phaseOk s = true) (he : s.ending = some r) :
    step s = .next (endOp r s) := by
  simp [step, activity, hr, h, he]

/-- In any other legal state the phase says what the step does. -/
theorem step_phase (hr : s.resetLine = false) (h : phaseOk s = true) (he : s.ending = none) :
    step s = match phaseActivity s with
      | .run i t => exec i t
      | .settled o => o := by
  simp only [step, activity, hr, h, he]
  cases phaseActivity s <;> rfl

theorem step_empty (hr : s.resetLine = false) (h : isIdle s = true) (hp : s.port = []) : step s = .next s := by
  obtain ⟨hm, -, -, he⟩ := isIdle_iff.mp h
  simp [step_phase hr (phaseOk_of_isIdle h) he, phaseActivity, hm, idleActivity, hp]

/-- A phase emits a command only while its outcome is open. -/
theorem ending_of_phaseCommand {i : Instr} (hc : phaseCommand s = some i) : s.ending = none := by
  cases he : s.ending with
  | none => rfl
  | some r => simp [phaseCommand, he] at hc

/-- The shape of a phase that emits a command. -/
theorem phaseCommand_spec {i : Instr} (h : phaseOk s = true) (hc : phaseCommand s = some i) :
    inItsPhase i s ∧ s.xp ≠ .none ∧ isEmitted i = true ∧ s.main ≠ .idle := by
  have he := ending_of_phaseCommand hc
  simp only [phaseCommand, he, Option.isSome_none, Bool.false_eq_true, if_false] at hc
  split at hc
  all_goals first
    | contradiction
    | (cases hc; rename_i hm
       simp [phaseOk, tripleOk, hm, isDelay, isWait, usesHandshake_iff, he] at h
       simp [inItsPhase, hm, h, isEmitted, he])
    | (split at hc
       · cases hc; rename_i hm hp
         simp [phaseOk, tripleOk, hm, isDelay, isWait, hp, he] at h
         simp [inItsPhase, hm, h, isEmitted, hp, isWait, he]
       · contradiction)

/-- A phase that emits a command runs it. -/
theorem step_command {i : Instr} (hr : s.resetLine = false) (h : phaseOk s = true) (hc : phaseCommand s = some i) :
    step s = exec i s := by
  have he := ending_of_phaseCommand hc
  simp only [phaseCommand, he, Option.isSome_none, Bool.false_eq_true, if_false] at hc
  split at hc
  all_goals first
    | contradiction
    | (cases hc; rename_i hm; simp [step_phase hr h he, phaseActivity, hm, payload])
    | (split at hc
       · cases hc; rename_i hm hp; simp [step_phase hr h he, phaseActivity, hm, waitActivity, hp]
       · contradiction)

theorem step_gap (hr : s.resetLine = false) (h : phaseOk s = true) (hm : s.main = .rstGap) :
    step s = delayStep 1 (enter .rstCmd) s := by
  have he := ending_of_active h (.inr (.inr (by rw [hm]; rfl)))
  simp [step_phase hr h he, phaseActivity, hm, Config.rstGapMs]

theorem step_settle (hr : s.resetLine = false) (h : phaseOk s = true) (hm : s.main = .rstSettle) :
    step s = delayStep 2 (enter .rstWait) s := by
  have he := ending_of_active h (.inr (.inr (by rw [hm]; rfl)))
  simp [step_phase hr h he, phaseActivity, hm, Config.rstSettleMs]

theorem step_pace (hr : s.resetLine = false) (h : phaseOk s = true) (hm : isWait s.main = true)
    (hp : s.poll = .delay) : step s = delayStep 1 nextPoll s := by
  have he := ending_of_active h (.inr (.inl (by rw [hp]; simp)))
  cases hc : s.main <;> simp [hc, isWait] at hm <;>
    simp [step_phase hr h he, phaseActivity, hc, waitActivity, hp, Config.pollDelayMs]

theorem step_request {r : Request} {rest : List Request} (hr : s.resetLine = false) (h : isIdle s = true)
    (hp : s.port = r :: rest) :
    step s =
      match decode r.code with
      | .ok i => exec i (takeRequest r rest s)
      | .error (.reservedOp _) => .next { s with port := rest }
      | .error _ => .refused .notARequest := by
  obtain ⟨hm, -, -, he⟩ := isIdle_iff.mp h
  simp only [step_phase hr (phaseOk_of_isIdle h) he, phaseActivity, hm, idleActivity, hp]
  cases hd : decode r.code with
  | ok i => simp
  | error e => cases e <;> simp

/-- A transaction in progress is a command's. -/
theorem phaseCommand_of_active (h : phaseOk s = true) (hx : s.xp ≠ .none) : ∃ i, phaseCommand s = some i := by
  have he := ending_of_active h (.inl hx)
  cases hm : s.main <;> simp [phaseOk, tripleOk, hm, hx, isDelay, isWait, he] at h <;> simp [phaseCommand, hm, h, he]

/-- An idle machine runs no wire command. -/
theorem isOperation_of_exec_idle {i : Instr} (h : isIdle s = true) (he : exec i s = .next t) :
    isOperation i = true := by
  cases hi : isEmitted i with
  | true =>
    have := (exec_command_next hi he).1.1
    cases i <;> simp [inItsPhase, (isIdle_iff.mp h).1, isWait] at this
  | false =>
    cases i <;> first
      | rfl
      | (simp [isEmitted] at hi; done)
      | (simp [exec, execWrsr, execWrdi, execRstff] at he)

/-- Everything a step can do. -/
inductive StepCase (s t : State) : Prop where
  | reset : s.resetLine = true → t = blockReset s → StepCase s t
  | quiet : s.resetLine = false → isIdle s = true → s.port = [] → t = s → StepCase s t
  | reserved (r : Request) (rest : List Request) : s.resetLine = false → isIdle s = true → s.port = r :: rest →
      t = { s with port := rest } → StepCase s t
  | start (r : Request) (rest : List Request) (i : Instr) : s.resetLine = false → isIdle s = true →
      s.port = r :: rest → decode r.code = .ok i → isOperation i = true →
      exec i (takeRequest r rest s) = .next t → StepCase s t
  | command (i : Instr) : s.resetLine = false → phaseOk s = true → phaseCommand s = some i → isEmitted i = true →
      exec i s = .next t → StepCase s t
  | ends (r : Result) : s.resetLine = false → phaseOk s = true → s.ending = some r → t = endOp r s → StepCase s t
  | gap : s.resetLine = false → phaseOk s = true → s.linkHung = false → s.main = .rstGap →
      t = enter .rstCmd (delayReq 1 s) → StepCase s t
  | settle : s.resetLine = false → phaseOk s = true → s.linkHung = false → s.main = .rstSettle →
      t = enter .rstWait (delayReq 2 s) → StepCase s t
  | pace : s.resetLine = false → phaseOk s = true → s.linkHung = false → isWait s.main = true → s.poll = .delay →
      t = nextPoll (delayReq 1 s) → StepCase s t

theorem phaseOk_of_step (hr : s.resetLine = false) (h : step s = .next t) : phaseOk s = true := by
  cases hp : phaseOk s with
  | true => rfl
  | false => simp [step, activity, hr, hp] at h

/-- A phase whose end is not due either emits a command or delays. -/
theorem phase_split (h : phaseOk s = true) (he : s.ending = none) (hm : s.main ≠ .idle) :
    (∃ i, phaseCommand s = some i) ∨ s.main = .rstGap ∨ s.main = .rstSettle ∨
      (isWait s.main = true ∧ s.poll = .delay) := by
  cases hc : s.main
  all_goals first
    | contradiction
    | (exact .inl ⟨_, by simp [phaseCommand, hc, he]; rfl⟩)
    | (simp; done)
    | (simp [phaseOk, tripleOk, hc, isDelay, isWait, he] at h
       rcases h with ⟨h, -⟩ | ⟨h, -⟩
       · exact .inl ⟨.rdsr, by simp [phaseCommand, hc, h, he]⟩
       · exact .inr (.inr (.inr ⟨by simp [isWait], h⟩)))

theorem step_next (h : step s = .next t) : StepCase s t := by
  cases hr : s.resetLine with
  | true => rw [step_reset hr] at h; cases h; exact .reset hr rfl
  | false =>
    have hp := phaseOk_of_step hr h
    cases he : s.ending with
    | some r => rw [step_end hr hp he] at h; cases h; exact .ends r hr hp he rfl
    | none =>
    by_cases hm : s.main = .idle
    · have hi := isIdle_of_phaseOk hp hm
      cases hq : s.port with
      | nil => rw [step_empty hr hi hq] at h; cases h; exact .quiet hr hi hq rfl
      | cons r rest =>
        rw [step_request hr hi hq] at h
        split at h
        · exact .start r rest _ hr hi hq ‹_› (isOperation_of_exec_idle (s := takeRequest r rest s) hi h) h
        · cases h; exact .reserved r rest hr hi hq rfl
        · cases h
    · rcases phase_split hp he hm with ⟨i, hc⟩ | hg | hg | ⟨hw, hd⟩
      · rw [step_command hr hp hc] at h
        exact .command i hr hp hc (phaseCommand_spec hp hc).2.2.1 h
      · rw [step_gap hr hp hg] at h
        obtain ⟨hh, rfl⟩ := delayStep_next h
        exact .gap hr hp hh hg rfl
      · rw [step_settle hr hp hg] at h
        obtain ⟨hh, rfl⟩ := delayStep_next h
        exact .settle hr hp hh hg rfl
      · rw [step_pace hr hp hw hd] at h
        obtain ⟨hh, rfl⟩ := delayStep_next h
        exact .pace hr hp hh hw hd rfl

end Sys2Proof.Machine
end

