-- ==== Sys2Proof/Laws/Encoding.lean ====
section
/-! SUPPORT. The address bytes of a frame and the address they spell are inverse to each other, and a frame never
decodes to a host operation. -/

namespace Sys2Proof

/-- An address is what its three bytes spell. -/
theorem joinAddr_extract (a : Addr) :
    joinAddr (a.extractLsb' 16 8) (a.extractLsb' 8 8) (a.extractLsb' 0 8) = a := by
  apply BitVec.eq_of_getLsbD_eq
  intro i hi
  simp only [joinAddr, BitVec.getLsbD_append, BitVec.getLsbD_extractLsb']
  split
  · rename_i h
    simp [h]
  · split
    · rename_i h1 h2
      rw [show 8 + (i - 8) = i by omega]
      simp [h2]
    · rename_i h1 h2
      rw [show 16 + (i - 8 - 8) = i by omega]
      simp [show i - 8 - 8 < 8 by omega]

/-- Three bytes are the address bytes of the address they spell. -/
theorem addrBytes_joinAddr (x y z : Byte) : addrBytes (joinAddr x y z) = [x, y, z] := by
  have h1 : (joinAddr x y z).extractLsb' 16 8 = x := by
    apply BitVec.eq_of_getLsbD_eq
    intro i hi
    simp only [joinAddr, BitVec.getLsbD_append, BitVec.getLsbD_extractLsb']
    simp [hi, show ¬ 16 + i < 8 by omega, show ¬ 16 + i - 8 < 8 by omega, show 16 + i - 8 - 8 = i by omega]
  have h2 : (joinAddr x y z).extractLsb' 8 8 = y := by
    apply BitVec.eq_of_getLsbD_eq
    intro i hi
    simp only [joinAddr, BitVec.getLsbD_append, BitVec.getLsbD_extractLsb']
    simp [hi, show ¬ 8 + i < 8 by omega]
  have h3 : (joinAddr x y z).extractLsb' 0 8 = z := by
    apply BitVec.eq_of_getLsbD_eq
    intro i hi
    simp only [joinAddr, BitVec.getLsbD_append, BitVec.getLsbD_extractLsb']
    simp [hi]
  simp [addrBytes, h1, h2, h3]

/-- What a frame decodes to: a wire command, or an error that names no host code. -/
def frameAnswer : Except DecodeError Instr → Prop
  | .ok i => Machine.isOperation i = false
  | .error e => ∀ op, e ≠ .reservedOp op

theorem decodeOpcode_answer (b : Byte) (rest : List Byte) : frameAnswer (decodeOpcode b rest) := by
  have bare : ∀ i, Machine.isOperation i = false → frameAnswer (decodeBare b i rest) := by
    intro i hi
    cases rest with
    | nil => exact hi
    | cons _ _ => intro op; simp
  have id : frameAnswer (decodeId rest) := by
    unfold decodeId
    split
    · rfl
    · intro op; simp
  have status : frameAnswer (decodeStatus rest) := by
    unfold decodeStatus
    split
    · rfl
    · intro op; simp
  have erase : frameAnswer (decodeErase rest) := by
    unfold decodeErase
    split
    · rfl
    · intro op; simp
  have program : frameAnswer (decodeProgram rest) := by
    unfold decodeProgram
    split
    · rfl
    · intro op; simp
  have read : frameAnswer (decodeRead rest) := by
    unfold decodeRead
    split
    · split
      · rfl
      · intro op; simp
    · intro op; simp
  unfold decodeOpcode
  by_cases h : b = opRsten
  · rw [if_pos h]; exact bare _ rfl
  rw [if_neg h]; clear h
  by_cases h : b = opRst
  · rw [if_pos h]; exact bare _ rfl
  rw [if_neg h]; clear h
  by_cases h : b = opRdid
  · rw [if_pos h]; exact id
  rw [if_neg h]; clear h
  by_cases h : b = opRdsr
  · rw [if_pos h]; exact status
  rw [if_neg h]; clear h
  by_cases h : b = opWrsr
  · rw [if_pos h]; rfl
  rw [if_neg h]; clear h
  by_cases h : b = opWren
  · rw [if_pos h]; exact bare _ rfl
  rw [if_neg h]; clear h
  by_cases h : b = opWrdi
  · rw [if_pos h]; rfl
  rw [if_neg h]; clear h
  by_cases h : b = opSe
  · rw [if_pos h]; exact erase
  rw [if_neg h]; clear h
  by_cases h : b = opPp
  · rw [if_pos h]; exact program
  rw [if_neg h]; clear h
  by_cases h : b = opRd
  · rw [if_pos h]; exact read
  rw [if_neg h]; clear h
  by_cases h : b = opRstff
  · rw [if_pos h]; rfl
  rw [if_neg h]
  intro op; simp

/-- A frame never decodes to a host operation, nor to the error of a reserved host code. -/
theorem decode_frame_answer (bytes : List Byte) : frameAnswer (decode (.frame bytes)) := by
  cases bytes with
  | nil => intro op; simp
  | cons b rest => exact decodeOpcode_answer b rest

end Sys2Proof
end

