-- ==== Sys2Proof/Laws/PerInstr.lean ====
section
/-! SUPPORT. The family `Frames`: the two writings of an instruction's encoding agree, the encoder's (Decode.lean) and
the bytes claims are stated with (Safety.lean), instruction by instruction. -/

namespace Sys2Proof.Laws.Frames

/-- A well-formed wire command is encoded as its frame, and a host operation as one of the six host codes. -/
def Statement (i : Instr) : Prop :=
  ∀ c : Cfg, i.wellFormed c = true →
    (Machine.isEmitted i = true ∧ encode c i = .frame (Machine.frameOf c i)) ∨
    (Machine.isOperation i = true ∧ ∃ op addr len, encode c i = .request op addr len ∧ op.toNat ≤ 5)

theorem rsten : Statement .rsten := fun _ _ => .inl ⟨rfl, rfl⟩
theorem rst : Statement .rst := fun _ _ => .inl ⟨rfl, rfl⟩
theorem rdid : Statement .rdid := fun _ _ => .inl ⟨rfl, rfl⟩
theorem rdsr : Statement .rdsr := fun _ _ => .inl ⟨rfl, rfl⟩
theorem wrsr : Statement .wrsr := fun _ h => by simp [Instr.wellFormed] at h
theorem wren : Statement .wren := fun _ _ => .inl ⟨rfl, rfl⟩
theorem wrdi : Statement .wrdi := fun _ h => by simp [Instr.wellFormed] at h
theorem se (addr : Addr) : Statement (.se addr) := fun _ _ => .inl ⟨rfl, rfl⟩
theorem pp (addr : Addr) (data : List Byte) : Statement (.pp addr data) := fun _ _ => .inl ⟨rfl, rfl⟩
theorem rd (addr : Addr) (n : Len) : Statement (.rd addr n) := fun _ _ => .inl ⟨rfl, rfl⟩
theorem rstff : Statement .rstff := fun _ h => by simp [Instr.wellFormed] at h
theorem reset : Statement .reset := fun _ _ => .inr ⟨rfl, _, _, _, rfl, by decide⟩
theorem readJedecID : Statement .readJedecID := fun _ _ => .inr ⟨rfl, _, _, _, rfl, by decide⟩
theorem writeEnable : Statement .writeEnable := fun _ _ => .inr ⟨rfl, _, _, _, rfl, by decide⟩
theorem sectorErase (addr : Addr) : Statement (.sectorErase addr) := fun _ _ => .inr ⟨rfl, _, _, _, rfl, by decide⟩
theorem pageProgram (addr : Addr) (len : Len) : Statement (.pageProgram addr len) :=
  fun _ _ => .inr ⟨rfl, _, _, _, rfl, by decide⟩
theorem read (addr : Addr) (len : Len) : Statement (.read addr len) := fun _ _ => .inr ⟨rfl, _, _, _, rfl, by decide⟩

end Sys2Proof.Laws.Frames
end

