-- ==== Sys2Proof/Tests/Slice0.lean ====
section
/-! SUPPORT. Tests whose expected results are the spec's (95_test_vectors.md; 30_encoding.md), and a witness for the
hypotheses of every obligation that has some. -/

namespace Sys2Proof.Tests

open Sys2Proof.Machine

/-! ### Fixtures -/

/-- Configuration TC1 (95_test_vectors.md 0.1). -/
def tc1 : Cfg := ⟨256, 16, 1, 0x00, 3, 5, 10, 4⟩

/-- Mock device M1 with its default parameters (95_test_vectors.md 0.3). -/
def m1 : Device := ⟨[], false, 0, false, false, 0, (0xAA, 0xBB, 0xCC), 2, 1, 1, none, false, false⟩

/-- The idle machine after block reset, under TC1. -/
def idle : State := { State.reset with cfg := tc1 }

/-- The idle machine with requests at its port and M1 behind the transport. -/
def asked (port : List Request) : State := { idle with port := port, transport := .simple m1 }

/-- A host request. -/
def ask (op : BitVec 3) (a : Addr) (n : Len) (data : List Byte) : Request := ⟨.request op a n, data⟩

/-- The machine in a phase of an operation. -/
def inPhase (m : Main) (p : Poll) (x : Xp) (op : BitVec 3) : State :=
  { idle with main := m, poll := p, xp := x, op := op, sel := decide (x = .xchg) || decide (x = .desel) }

/-- The machine in a phase, after an exchange with this answer. -/
def answered (m : Main) (p : Poll) (op : BitVec 3) (rx : Option (List Byte)) : State :=
  { inPhase m p .desel op with answer := rx }

/-- The outcome is a next state that meets a test. -/
def shows (o : Out) (p : State → Bool) : Bool :=
  match o with
  | .next t => p t
  | .fault _ => false
  | .refused _ => false

/-- The decoder's answer is this instruction. -/
def decodes (c : Code) (i : Instr) : Bool :=
  match decode c with
  | .ok j => decide (j = i)
  | .error _ => false

/-- The decoder's answer is this error. -/
def rejects (c : Code) (e : DecodeError) : Bool :=
  match decode c with
  | .ok _ => false
  | .error d => decide (d = e)

/-! ### WellFormed refuses each ill-formed term -/

theorem test_wf_program_too_long : Instr.wellFormed { tc1 with pageSize := 2 } (.pp 0 [1, 2, 3]) = false := by decide
theorem test_wf_program_longest : Instr.wellFormed { tc1 with pageSize := 2 } (.pp 0 [1, 2]) = true := by decide
theorem test_wf_read_too_long : Instr.wellFormed tc1 (.rd 0 257) = false := by decide
theorem test_wf_read_longest : Instr.wellFormed tc1 (.rd 0 256) = true := by decide
theorem test_wf_write_status : Instr.wellFormed tc1 .wrsr = false := by decide
theorem test_wf_write_disable : Instr.wellFormed tc1 .wrdi = false := by decide
theorem test_wf_reset_ff : Instr.wellFormed tc1 .rstff = false := by decide

/-! ### Decoding: words written out from 30_encoding.md R80 to R88 -/

theorem test_decode_rsten : decodes (.frame [0b01100110]) .rsten = true := by decide
theorem test_decode_rst : decodes (.frame [0b10011001]) .rst = true := by decide
theorem test_decode_rdid : decodes (.frame [0b10011111, 0, 0, 0]) .rdid = true := by decide
theorem test_decode_rdsr : decodes (.frame [0b00000101, 0]) .rdsr = true := by decide
theorem test_decode_wrsr : decodes (.frame [0b00000001]) .wrsr = true := by decide
theorem test_decode_wren : decodes (.frame [0b00000110]) .wren = true := by decide
theorem test_decode_wrdi : decodes (.frame [0b00000100]) .wrdi = true := by decide
theorem test_decode_rstff : decodes (.frame [0b11111111]) .rstff = true := by decide
/-- V1.4: no sign, no shift. -/
theorem test_decode_se : decodes (.frame [0b00100000, 0x80, 0x00, 0x01]) (.se 0x800001) = true := by decide
/-- L1.8. -/
theorem test_decode_pp :
    decodes (.frame [0b00000010, 0x01, 0x23, 0x45, 0xDE, 0xAD]) (.pp 0x012345 [0xDE, 0xAD]) = true := by decide
/-- L1.8. -/
theorem test_decode_rd :
    decodes (.frame [0b00000011, 0x01, 0x23, 0x45, 0x00, 0x00]) (.rd 0x012345 2) = true := by decide
theorem test_decode_reset : decodes (.request 0b000 7 9) .reset = true := by decide
theorem test_decode_readJedecID : decodes (.request 0b001 7 9) .readJedecID = true := by decide
theorem test_decode_writeEnable : decodes (.request 0b010 7 9) .writeEnable = true := by decide
theorem test_decode_sectorErase : decodes (.request 0b011 7 9) (.sectorErase 7) = true := by decide
theorem test_decode_pageProgram : decodes (.request 0b100 7 9) (.pageProgram 7 9) = true := by decide
theorem test_decode_read : decodes (.request 0b101 7 9) (.read 7 9) = true := by decide
theorem test_reject_host_code : rejects (.request 0b110 0 0) (.reservedOp 6) = true := by decide
theorem test_reject_empty : rejects (.frame []) .emptyFrame = true := by decide
theorem test_reject_unknown : rejects (.frame [0x00]) (.unknownOpcode 0x00) = true := by decide
theorem test_reject_length : rejects (.frame [0x06, 0x00]) (.badLength 0x06) = true := by decide
theorem test_reject_short_address : rejects (.frame [0x20, 0x00, 0x00]) (.badLength 0x20) = true := by decide
/-- V1.14: fillers are the configuration's. -/
theorem test_encode_filler :
    encode { tc1 with filler := 0xA5 } (.rd 0x000010 3) = .frame [0x03, 0x00, 0x00, 0x10, 0xA5, 0xA5, 0xA5] := by
  decide

/-- The table's words that only a frame can mean. -/
theorem test_table_frames :
    [0x66, 0x99, 0x9F, 0x06, 0x20, 0xFF].map (decodeTableWord 8) =
      [some .rsten, some .rst, some .rdid, some .wren, some (.se 0), some .rstff] := by decide

/-- The table's words that a host operation claims (log 15). -/
theorem test_table_operations :
    [0, 1, 2, 3, 4, 5].map (decodeTableWord 8) =
      [some .reset, some .readJedecID, some .writeEnable, some (.sectorErase 0), some (.pageProgram 0 0),
        some (.read 0 0)] := by decide

/-- Wire commands placed with their whole frame run, whatever the free configuration is. -/
theorem test_fetch_frames :
    ([(8, 0x66), (8, 0x99), (32, 0x9F), (16, 0x05), (8, 0x06), (32, 0x20), (32, 0x02), (32, 0x03)].all fun w =>
      shows (step (State.reset.withFetchWord w.1 w.2)) fun t => decide (t.trace = [.sel])) = true := by decide

/-- Host operations placed at the port start. -/
theorem test_fetch_operations :
    ([0, 1, 2, 3, 4, 5].all fun w =>
      shows (step (State.reset.withFetchWord 8 w)) fun t =>
        decide (t.op = BitVec.ofNat 3 w) && decide (t.main ≠ .idle)) = true := by decide

/-! ### Status bits (V2.1), the identification string (V1.9), result codes (V1.13) -/

theorem test_busy :
    [0x00, 0x01, 0x02, 0x03, 0xFC, 0xFD, 0xFE, 0xFF, 0x80].map busy =
      [false, true, false, true, false, true, false, true, false] := by decide
theorem test_latch :
    [0x00, 0x01, 0x02, 0x03, 0xFC, 0xFD, 0xFE, 0xFF, 0x80].map (wel tc1) =
      [false, false, true, true, false, false, true, true, false] := by decide
theorem test_id_string : idStr (0x0A, 0x00, 0xF1) = ['0', 'A', ' ', '0', '0', ' ', 'F', '1'] := by decide
theorem test_result_transport_error : Result.transportError.code = 7 := by decide

/-! ### One step of each instruction -/

/-- R120: the select line is asserted. -/
theorem test_rsten_selects :
    shows (step (inPhase .rstEn .none .sel 0)) (fun t => t.sel && decide (t.xp = .xchg)) = true := by decide
/-- V4.1: the frame. -/
theorem test_rsten_frame :
    shows (step { inPhase .rstEn .none .xchg 0 with transport := .simple m1 })
      (fun t => decide (t.trace = [.xchg [0x66] (some [0])])) = true := by decide
/-- V4.5: after a failed 0x99 no delay is made. -/
theorem test_rst_fails :
    shows (steps 2 (answered .rstCmd .none 0 none))
      (fun t => isIdle t && t.done && decide (t.result = .transportError) && decide (t.trace = [.desel])) = true := by
  decide
/-- R163: `W(2)` follows 0x99. -/
theorem test_rst_settles :
    shows (step (answered .rstCmd .none 0 (some [0]))) (fun t => decide (t.main = .rstSettle)) = true := by decide
/-- L1.4. -/
theorem test_rdid_latches :
    shows (steps 2 (answered .id .none 1 (some [0x5A, 0xAA, 0xBB, 0xCC])))
      (fun t => decide (idOut t = some (0xAA, 0xBB, 0xCC)) && decide (resultOut t = some 0)) = true := by decide
/-- V5.2. -/
theorem test_rdid_fails :
    shows (steps 2 (answered .id .none 1 none)) (fun t => decide (idOut t = none) && decide (resultOut t = some 7)) =
      true := by decide
/-- V2.11, last poll: ready wins over an expired limit. -/
theorem test_rdsr_ready_wins :
    shows (step { answered .weWait1 .read 2 (some [0xFF, 0x02]) with tlim := 3, pollcnt := 3 })
      (fun t => decide (t.main = .weCmd) && decide (t.status = 0x02)) = true := by decide
/-- V2.10, last poll. -/
theorem test_rdsr_timeout :
    shows (steps 2 { answered .weWait1 .read 2 (some [0xFF, 0x01]) with tlim := 3, pollcnt := 3 })
      (fun t => decide (resultOut t = some 6) && decide (t.pollcnt = 3)) = true := by decide
/-- V3.1: write-enable is followed by the second wait. -/
theorem test_wren_then_waits :
    shows (step (answered .weCmd .none 2 (some [0])))
      (fun t => decide (t.main = .weWait2) && decide (t.tlim = 3) && decide (t.poll = .read)) = true := by decide
/-- V6.5: a misaligned address is sent as given. -/
theorem test_se_frame :
    shows (step { inPhase .erCmd .none .xchg 3 with addr := 0x012345, transport := .simple m1 })
      (fun t => decide (t.trace = [.xchg [0x20, 0x01, 0x23, 0x45] (some [0, 0, 0, 0])])) = true := by decide
/-- V6.1: the wait after the erase has the erase's limit. -/
theorem test_se_then_waits :
    shows (step (answered .erCmd .none 3 (some [0, 0, 0, 0])))
      (fun t => decide (t.main = .erWait) && decide (t.tlim = 10)) = true := by decide
/-- V7.10: the payload follows the header, in index order. -/
theorem test_pp_frame :
    shows (step { inPhase .ppCmd .none .xchg 4 with
        addr := 0x0000FF, len := 2, txd := Memory.ofBytes [0xDE, 0xAD], transport := .simple m1 })
      (fun t => decide (t.trace = [.xchg [0x02, 0x00, 0x00, 0xFF, 0xDE, 0xAD] (some [0, 0, 0, 0, 0, 0])])) = true := by
  decide
/-- V7.4: `LEN = 0` sends the header alone. -/
theorem test_pp_empty :
    shows (step { inPhase .ppCmd .none .xchg 4 with addr := 0xABCDEF, transport := .simple m1 })
      (fun t => decide (t.trace = [.xchg [0x02, 0xAB, 0xCD, 0xEF] (some [0, 0, 0, 0])])) = true := by decide
/-- V8.1. -/
theorem test_rd_fills :
    shows (steps 2 { answered .rdCmd .none 5 (some [1, 2, 3, 4, 0xDE, 0xAD]) with len := 2 })
      (fun t => decide (rxdOut t = some [0xDE, 0xAD]) && decide (resultOut t = some 0)) = true := by decide
/-- V8.7: after a failure `RXD` is neither written nor valid. -/
theorem test_rd_fails :
    shows (steps 2 { answered .rdCmd .none 5 none with len := 2 })
      (fun t => decide (t.rxd = []) && decide (rxdOut t = none) && decide (resultOut t = some 7)) = true := by decide

theorem test_wrsr_stops : (match exec .wrsr idle with | .refused r => decide (r = .writeStatusNeverEmitted) | _ => false) =
    true := by decide
theorem test_wrdi_stops : (match exec .wrdi idle with | .refused r => decide (r = .writeDisableNeverEmitted) | _ => false) =
    true := by decide
theorem test_rstff_stops : (match exec .rstff idle with | .refused r => decide (r = .resetFFNeverEmitted) | _ => false) =
    true := by decide

/-- V4.7: `reset` makes no busy check. -/
theorem test_reset_starts :
    shows (step (asked [ask 0 0 0 []])) (fun t => decide (t.main = .rstEn) && !t.done && decide (t.port = [])) = true := by
  decide
/-- V5.4: no status read is made. -/
theorem test_readJedecID_starts :
    shows (step (asked [ask 1 0 0 []])) (fun t => decide (t.main = .id) && decide (t.xp = .sel)) = true := by decide
theorem test_writeEnable_starts :
    shows (step (asked [ask 2 0 0 []])) (fun t => decide (t.main = .weWait1) && decide (t.tlim = 3)) = true := by decide
/-- V6.5. -/
theorem test_sectorErase_starts :
    shows (step (asked [ask 3 0x012345 0 []])) (fun t => decide (t.main = .weWait1) && decide (t.addr = 0x012345)) =
      true := by decide
/-- V7.6. -/
theorem test_pageProgram_too_long :
    shows (steps 2 (asked [ask 4 0 257 []])) (fun t => decide (resultOut t = some 4) && decide (t.trace = [])) = true := by
  decide
/-- V7.5. -/
theorem test_pageProgram_longest :
    shows (step (asked [ask 4 0 256 []])) (fun t => decide (t.main = .weWait1) && !t.done) = true := by decide
/-- V8.5. -/
theorem test_read_too_long :
    shows (steps 2 (asked [ask 5 0 257 []])) (fun t => decide (resultOut t = some 5) && decide (t.trace = [])) = true := by
  decide
/-- V8.4. -/
theorem test_read_longest :
    shows (step (asked [ask 5 0 256 []])) (fun t => decide (t.main = .rdCheck) && !t.done) = true := by decide
/-- V1.12. -/
theorem test_reserved_code :
    shows (step (asked [ask 6 0 0 []])) (fun t => decide (t = { asked [] with port := [] })) = true := by decide
/-- U7. -/
theorem test_start_while_busy :
    (match exec .reset (inPhase .id .none .sel 1) with
      | .refused r => decide (r = .startWhileBusy)
      | _ => false) = true := by decide
/-- R191, R175: after the last `Desel()` the operation has not ended yet. -/
theorem test_end_is_a_step :
    shows (step (answered .id .none 1 (some [0x5A, 0xAA, 0xBB, 0xCC])))
      (fun t => decide (t.main = .id) && !t.done && !t.sel && decide (t.ending = some .success)) = true := by decide
/-- R123, R194: one delay of 1 ms between polls. -/
theorem test_pace :
    shows (step { inPhase .rstWait .delay .none 0 with tlim := 5, pollcnt := 4 })
      (fun t => decide (t.trace = [.delay 1]) && decide (t.pollcnt = 5) && decide (t.poll = .read)) = true := by decide
/-- R242: block reset inside a transaction. -/
theorem test_block_reset :
    shows (step { inPhase .id .none .desel 1 with resetLine := true })
      (fun t => isIdle t && !t.sel && !t.done) = true := by decide

/-- M1: an erase with the latch clear is a silent no-op. -/
theorem test_m1_gated : (m1.exchange [0x20, 0, 0, 0]).2.busyCnt = 0 := by decide
/-- M1: a program writes and reads back across the end of the device. -/
theorem test_m1_wraps :
    ((((({ m1 with wel := true }).exchange [0x02, 0xFF, 0xFF, 0xFF, 7, 8]).2.exchange [0x05, 0]).2.exchange
      [0x03, 0xFF, 0xFF, 0xFF, 0, 0]).1) = some [0, 0, 0, 0, 7, 8] := by decide

/-! ### Witnesses: the hypotheses of each obligation, met together -/

/-- The outcome is this state. -/
theorem next_of_shows {o : Out} {p : State → Bool} (h : shows o p = true) : ∃ t, o = .next t ∧ p t = true := by
  cases o with
  | next t => exact ⟨t, rfl, h⟩
  | fault r => cases h
  | refused r => cases h

/-! #### Encodings -/

theorem witness_frame_length :
    tc1.ok = true ∧ Instr.wellFormed tc1 (.rd 0 256) = true ∧ Instr.wellFormed tc1 .rdid = true := by decide

theorem witness_encode_of_decode :
    decode (.frame [0x06]) = .ok .wren ∧ decode (.frame [0x20, 1, 2, 3]) = .ok (.se 0x010203) ∧
      decode (.frame [0x02, 1, 2, 3, 4]) = .ok (.pp 0x010203 [4]) ∧ decode (.frame [0x66]) = .ok .rsten ∧
      decode (.frame [0x99]) = .ok .rst := ⟨rfl, rfl, rfl, rfl, rfl⟩

/-! #### Starts -/

theorem witness_starts : isIdle idle = true := by decide

/-- The boundary of the length check, both sides. -/
theorem witness_lengths :
    isIdle idle = true ∧ (256 : Len).toNat ≤ idle.cfg.pageSize ∧ (0 : Len).toNat ≤ idle.cfg.pageSize ∧
      idle.cfg.pageSize < (257 : Len).toNat ∧ idle.cfg.pageSize < (65535 : Len).toNat := by decide

theorem witness_start_while_busy :
    isOperation (.read 0 0) = true ∧ isIdle (inPhase .rdCheck .none .sel 5) = false := by decide

theorem witness_starts_frame :
    (∃ t, exec .reset idle = .next t) ∧ (∃ t, exec (.pageProgram 0 257) idle = .next t ∧ t.ending ≠ none) ∧
      (∃ t, exec (.read 0 256) idle = .next t ∧ t.done = false ∧ isWait t.main = false) :=
  ⟨⟨_, rfl⟩, ⟨_, rfl, by decide⟩, ⟨_, rfl, rfl, rfl⟩⟩

/-! #### Commands: each is in its phase at each of the three places of `XP` -/

theorem witness_rsten (x : Xp) : CanRun .rsten (inPhase .rstEn .none x 0) ∧ (inPhase .rstEn .none x 0).xp = x :=
  ⟨⟨⟨rfl, rfl, rfl⟩, rfl, by simp [frameOf, inPhase, idle, tc1]⟩, rfl⟩
theorem witness_rst (x : Xp) : CanRun .rst (inPhase .rstCmd .none x 0) ∧ (inPhase .rstCmd .none x 0).xp = x :=
  ⟨⟨⟨rfl, rfl, rfl⟩, rfl, by simp [frameOf, inPhase, idle, tc1]⟩, rfl⟩
theorem witness_rdid (x : Xp) : CanRun .rdid (inPhase .id .none x 1) ∧ (inPhase .id .none x 1).xp = x :=
  ⟨⟨⟨rfl, rfl, rfl⟩, rfl, by simp [frameOf, inPhase, idle, tc1]⟩, rfl⟩
theorem witness_wren (x : Xp) : CanRun .wren (inPhase .weCmd .none x 2) ∧ (inPhase .weCmd .none x 2).xp = x :=
  ⟨⟨⟨rfl, rfl, rfl⟩, rfl, by simp [frameOf, inPhase, idle, tc1]⟩, rfl⟩
theorem witness_rdsr_wait (x : Xp) :
    CanRun .rdsr (inPhase .ppWait .read x 4) ∧ (inPhase .ppWait .read x 4).xp = x ∧ isWait .ppWait = true :=
  ⟨⟨⟨rfl, .inl ⟨rfl, rfl⟩⟩, rfl, by simp [frameOf, inPhase, idle, tc1]⟩, rfl, rfl⟩
theorem witness_rdsr_verify (x : Xp) :
    CanRun .rdsr (inPhase .weVerify .none x 4) ∧ (inPhase .weVerify .none x 4).xp = x :=
  ⟨⟨⟨rfl, .inr (.inl ⟨rfl, rfl, .inr (.inr rfl)⟩)⟩, rfl, by simp [frameOf, inPhase, idle, tc1]⟩, rfl⟩
theorem witness_rdsr_check (x : Xp) :
    CanRun .rdsr (inPhase .rdCheck .none x 5) ∧ (inPhase .rdCheck .none x 5).xp = x :=
  ⟨⟨⟨rfl, .inr (.inr ⟨rfl, rfl⟩)⟩, rfl, by simp [frameOf, inPhase, idle, tc1]⟩, rfl⟩
theorem witness_se (x : Xp) (a : Addr) :
    CanRun (.se a) (inPhase .erCmd .none x 3) ∧ (inPhase .erCmd .none x 3).xp = x :=
  ⟨⟨⟨rfl, rfl, rfl⟩, rfl, by simp [frameOf, inPhase, idle, tc1]⟩, rfl⟩
theorem witness_pp (x : Xp) (a : Addr) :
    CanRun (.pp a [1, 2]) (inPhase .ppCmd .none x 4) ∧ (inPhase .ppCmd .none x 4).xp = x :=
  ⟨⟨⟨rfl, rfl, rfl⟩, rfl, by simp [frameOf, inPhase, idle, tc1]⟩, rfl⟩
/-- The longest frame, `PAGE_SIZE + 4` bytes. -/
theorem witness_pp_longest (x : Xp) (a : Addr) :
    CanRun (.pp a [1, 2]) { inPhase .ppCmd .none x 4 with cfg := { tc1 with pageSize := 2 } } :=
  ⟨⟨rfl, rfl, rfl⟩, rfl, by simp [frameOf]⟩
theorem witness_rd (x : Xp) (a : Addr) :
    CanRun (.rd a 2) (inPhase .rdCmd .none x 5) ∧ (inPhase .rdCmd .none x 5).xp = x :=
  ⟨⟨⟨rfl, rfl, rfl⟩, rfl, by simp [frameOf, inPhase, idle, tc1]⟩, rfl⟩

theorem witness_exchange :
    (inPhase .id .none .xchg 1).cfg.ok = true ∧
      (Transport.simple m1).exchange [.sel] [0x9F, 0, 0, 0] =
        (some [0, 0xAA, 0xBB, 0xCC], .simple { m1 with seen := 1 }) ∧
      (Transport.oracle [none]).exchange [.sel] [0x9F, 0, 0, 0] = (none, .oracle []) := by decide

theorem witness_failed (m : Main) (p : Poll) (op : BitVec 3) :
    (answered m p op none).xp = .desel ∧ (answered m p op none).answer = none := ⟨rfl, rfl⟩

theorem witness_answered (m : Main) (p : Poll) (op : BitVec 3) (rx : List Byte) :
    (answered m p op (some rx)).xp = .desel ∧ (answered m p op (some rx)).answer = some rx := ⟨rfl, rfl⟩

theorem witness_read_data :
    (answered .rdCmd .none 5 (some [1, 2, 3, 4, 0xDE, 0xAD])).answer = some (1 :: 2 :: 3 :: 4 :: [0xDE, 0xAD]) ∧
      [(0xDE : Byte), 0xAD].length = (2 : Len).toNat ∧ (answered .rdCmd .none 5 none).rxd.wf := by decide

/-- One status byte and wait for each clause; the boundary `POLLCNT = TLIM` and one below it. -/
theorem witness_status_in_a_wait :
    (0x02 : Byte).getLsbD 0 = false ∧ (0x03 : Byte).getLsbD 0 = true ∧
      (inPhase .weWait1 .read .desel 2).main = .weWait1 ∧ (inPhase .weWait2 .read .desel 2).main = .weWait2 ∧
      Main.erWait ≠ .weWait1 ∧ Main.erWait ≠ .weWait2 ∧ isWait .erWait = true ∧
      (3 : Millis) ≤ 3 ∧ (2 : Millis) < 3 := by decide

theorem witness_status_in_the_verify_step :
    (0x01 : Byte).getLsbD tc1.welBit = false ∧ (0x03 : Byte).getLsbD tc1.welBit = true ∧
      (inPhase .weVerify .none .desel 2).op = 2 ∧ (inPhase .weVerify .none .desel 3).op = 3 ∧
      (inPhase .weVerify .none .desel 4).op = 4 := by decide

theorem witness_out_of_phase : isEmitted .wren = true ∧ ¬ inItsPhase .wren idle :=
  ⟨rfl, fun h => by simp [inItsPhase, idle, State.reset] at h⟩

theorem witness_commands_frame :
    (∃ t, exec .rdsr (answered .rdCheck .none 5 (some [0, 0])) = .next t ∧ t.main ≠ .idle) ∧
      (∃ t, exec (.rd 0 2) (answered .rdCmd .none 5 (some [1, 2, 3, 4, 5, 6])) = .next t ∧ t.ending = some .success) := by
  constructor
  · obtain ⟨t, h, ht⟩ := next_of_shows (o := exec .rdsr (answered .rdCheck .none 5 (some [0, 0])))
      (p := fun t => decide (t.main ≠ .idle)) (by decide)
    exact ⟨t, h, by simpa using ht⟩
  · obtain ⟨t, h, ht⟩ := next_of_shows (o := exec (.rd 0 2) (answered .rdCmd .none 5 (some [1, 2, 3, 4, 5, 6])))
      (p := fun t => decide (t.ending = some .success)) (by decide)
    exact ⟨t, h, by simpa using ht⟩

theorem witness_reserved_bits :
    CanRun .rdsr (inPhase .rdCheck .none .desel 5) ∧ (0x00 : Byte).getLsbD 0 = (0xFC : Byte).getLsbD 0 ∧
      (0x00 : Byte).getLsbD tc1.welBit = (0xFC : Byte).getLsbD tc1.welBit ∧
      ∃ t, exec .rdsr { inPhase .rdCheck .none .desel 5 with answer := some [0, 0x00] } = .next t := by
  refine ⟨(witness_rdsr_check .desel).1, by decide, by decide, ?_⟩
  obtain ⟨t, h, -⟩ := next_of_shows
    (o := exec .rdsr { inPhase .rdCheck .none .desel 5 with answer := some [0, 0x00] }) (p := fun _ => true) (by decide)
  exact ⟨t, h⟩

/-! #### Steps -/

theorem witness_step_request :
    (asked [ask 4 1 2 [5, 6]]).resetLine = false ∧ isIdle (asked [ask 4 1 2 [5, 6]]) = true ∧
      (asked [ask 4 1 2 [5, 6]]).port = [ask 4 1 2 [5, 6]] ∧
      decode (ask 4 1 2 [5, 6]).code = .ok (.pageProgram 1 2) := ⟨rfl, rfl, rfl, rfl⟩

theorem witness_step_command :
    (inPhase .erWait .read .sel 3).resetLine = false ∧ phaseOk (inPhase .erWait .read .sel 3) = true ∧
      phaseCommand (inPhase .erWait .read .sel 3) = some .rdsr ∧ phaseOk (inPhase .rdCmd .none .xchg 5) = true ∧
      phaseCommand (inPhase .rdCmd .none .xchg 5) = some (.rd 0 0) := by decide

theorem witness_delays :
    Undisturbed (inPhase .rstGap .none .none 0) ∧ phaseOk (inPhase .rstGap .none .none 0) = true ∧
      Undisturbed (inPhase .rstSettle .none .none 0) ∧ phaseOk (inPhase .rstSettle .none .none 0) = true ∧
      Undisturbed (inPhase .rstWait .delay .none 0) ∧ phaseOk (inPhase .rstWait .delay .none 0) = true ∧
      isWait .rstWait = true :=
  ⟨⟨rfl, rfl⟩, by decide, ⟨rfl, rfl⟩, by decide, ⟨rfl, rfl⟩, by decide, rfl⟩

theorem witness_idle_steps :
    idle.resetLine = false ∧ isIdle idle = true ∧ idle.port = [] ∧ (asked [ask 6 0 0 []]).port = [ask 6 0 0 []] ∧
      (ask 6 0 0 []).code = .request 6 0 0 ∧ (ask 7 0 0 []).code = .request 7 0 0 := ⟨rfl, rfl, rfl, rfl, rfl, rfl⟩

theorem witness_block_reset : ({ inPhase .id .none .desel 1 with resetLine := true } : State).resetLine = true := rfl

theorem witness_hung :
    ({ inPhase .rstGap .none .none 0 with linkHung := true } : State).resetLine = false ∧
      phaseOk { inPhase .rstGap .none .none 0 with linkHung := true } = true ∧ Main.rstGap ≠ .idle ∧
      ({ inPhase .rstGap .none .none 0 with linkHung := true } : State).ending = none := by decide

theorem witness_step : ∃ t, step idle = .next t := ⟨_, rfl⟩

/-- Each of the four writes happens in some step. -/
theorem witness_writes :
    (∃ t, step (asked [ask 4 1 1 [5]]) = .next t ∧ Memory.read t.txd 0 ≠ Memory.read (asked [ask 4 1 1 [5]]).txd 0 ∧
      t.op ≠ (asked [ask 4 1 1 [5]]).op) ∧
    (∃ t, step { answered .rdCmd .none 5 (some [1, 2, 3, 4, 5]) with len := 1 } = .next t ∧
      Memory.read t.rxd 0 ≠ 0xFF) ∧
    (∃ t, step (answered .id .none 1 (some [1, 2, 3, 4])) = .next t ∧ t.id0 ≠ 0) := by
  refine ⟨?_, ?_, ?_⟩
  · obtain ⟨t, h, ht⟩ := next_of_shows (o := step (asked [ask 4 1 1 [5]]))
      (p := fun t => decide (Memory.read t.txd 0 = 5) && decide (t.op = 4)) (by decide)
    simp only [Bool.and_eq_true, decide_eq_true_eq] at ht
    exact ⟨t, h, by rw [ht.1]; decide, by rw [ht.2]; decide⟩
  · obtain ⟨t, h, ht⟩ := next_of_shows (o := step { answered .rdCmd .none 5 (some [1, 2, 3, 4, 5]) with len := 1 })
      (p := fun t => decide (Memory.read t.rxd 0 ≠ 0xFF)) (by decide)
    exact ⟨t, h, by simpa using ht⟩
  · obtain ⟨t, h, ht⟩ := next_of_shows (o := step (answered .id .none 1 (some [1, 2, 3, 4])))
      (p := fun t => decide (t.id0 ≠ 0)) (by decide)
    exact ⟨t, h, by simpa using ht⟩

/-! #### The invariant -/

/-- Idle with a request at the port, after reset. -/
theorem witness_invariant_idle (r : Request) : Invariant (asked [r]) where
  cfg := rfl
  phase := rfl
  select := rfl
  running := fun h => absurd rfl h
  fresh := fun _ _ => .inl rfl
  operation := trivial
  returned := fun h => by cases h
  due := fun r h => by cases h
  emptied := fun _ => rfl
  limit := fun t h => by cases h
  length := fun h => absurd rfl h
  latch := fun h => by rcases h with h | h <;> cases h
  bracket := rfl
  gate := ⟨(fun h => by cases h), fun k h => by cases h⟩
  events := fun e h => by cases h
  recorded := fun h => by cases h
  memory := ⟨Memory.wf_nil, Memory.wf_nil, Memory.wf_nil⟩

/-- In the first step of the transaction of `readJedecID`. -/
def selecting : State := { inPhase .id .none .sel 1 with transport := .simple m1 }

theorem witness_invariant_sel : Invariant selecting where
  cfg := by decide
  phase := by decide
  select := by decide
  running := fun _ => rfl
  fresh := fun h => by cases h
  operation := rfl
  returned := fun h => by cases h
  due := fun r h => by cases h
  emptied := fun h => by cases h
  limit := fun t h => by cases h
  length := fun _ h => by rcases h with h | h <;> simp [selecting, inPhase] at h
  latch := fun h => by rcases h with h | h <;> cases h
  bracket := by decide
  gate := ⟨by decide, fun k h => by cases h⟩
  events := fun e h => by cases h
  recorded := fun h => by cases h
  memory := by decide

/-- Before the `Desel()` that ends `readJedecID`. -/
def identifying : State :=
  { answered .id .none 1 (some [0, 0xAA, 0xBB, 0xCC]) with
    trace := [.sel, .xchg [0x9F, 0, 0, 0] (some [0, 0xAA, 0xBB, 0xCC])] }

theorem witness_invariant_desel : Invariant identifying where
  cfg := by decide
  phase := by decide
  select := by decide
  running := fun _ => rfl
  fresh := fun h => by cases h
  operation := rfl
  returned := fun h => by cases h
  due := fun r h => by cases h
  emptied := fun h => by cases h
  limit := fun t h => by cases h
  length := fun _ h => by rcases h with h | h <;> simp [identifying, answered, inPhase] at h
  latch := fun h => by rcases h with h | h <;> cases h
  bracket := by decide
  gate := ⟨by decide, fun k h => by cases h⟩
  events := by simp [identifying, eventLegal, frameLegal, firstByte]
  recorded := fun _ => ⟨.rdid, by decide, by decide⟩
  memory := by decide

/-- After that `Desel()`: the end is due. -/
def concluding : State :=
  { inPhase .id .none .none 1 with
    id0 := 0xAA
    id1 := 0xBB
    id2 := 0xCC
    answer := some [0, 0xAA, 0xBB, 0xCC]
    ending := some .success
    trace := [.sel, .xchg [0x9F, 0, 0, 0] (some [0, 0xAA, 0xBB, 0xCC]), .desel] }

theorem witness_invariant_end : Invariant concluding where
  cfg := by decide
  phase := by decide
  select := by decide
  running := fun _ => rfl
  fresh := fun h => by cases h
  operation := rfl
  returned := fun h => by cases h
  due := fun r h => by cases h; exact ⟨.inr (.inl rfl), Nat.le_of_ble_eq_true rfl⟩
  emptied := fun h => by cases h
  limit := fun t h => by cases h
  length := fun _ h => by rcases h with h | h <;> simp [concluding, inPhase] at h
  latch := fun h => by rcases h with h | h <;> cases h
  bracket := by decide
  gate := ⟨by decide, fun k h => by cases h⟩
  events := by simp [concluding, eventLegal, frameLegal, firstByte]
  recorded := fun h => by cases h
  memory := by decide

theorem witness_end :
    concluding.resetLine = false ∧ phaseOk concluding = true ∧ concluding.ending = some .success := by decide

/-- Both ways an end comes to be due, at both rejections, and the end itself. -/
theorem witness_ended :
    Undisturbed identifying ∧ (∃ t, step identifying = .next t ∧ t.ending = some .success) ∧
      (∃ t, step (asked [ask 4 0 257 []]) = .next t ∧ t.ending = some .programmingFailed) ∧
      (∃ t, step (asked [ask 5 0 257 []]) = .next t ∧ t.ending = some .readFailed) ∧
      Undisturbed concluding ∧ concluding.main ≠ .idle ∧ (∃ t, step concluding = .next t ∧ t.main = .idle) := by
  refine ⟨⟨rfl, rfl⟩, ?_, ?_, ?_, ⟨rfl, rfl⟩, by decide, ?_⟩
  · obtain ⟨t, h, ht⟩ := next_of_shows (o := step identifying) (p := fun t => decide (t.ending = some .success))
      (by decide)
    exact ⟨t, h, by simpa using ht⟩
  · obtain ⟨t, h, ht⟩ := next_of_shows (o := step (asked [ask 4 0 257 []]))
      (p := fun t => decide (t.ending = some .programmingFailed)) (by decide)
    exact ⟨t, h, by simpa using ht⟩
  · obtain ⟨t, h, ht⟩ := next_of_shows (o := step (asked [ask 5 0 257 []]))
      (p := fun t => decide (t.ending = some .readFailed)) (by decide)
    exact ⟨t, h, by simpa using ht⟩
  · obtain ⟨t, h, ht⟩ := next_of_shows (o := step concluding) (p := fun t => decide (t.main = .idle)) (by decide)
    exact ⟨t, h, by simpa using ht⟩

/-- Before the exchange of an erase frame, after the handshake. -/
def erasing : State :=
  { inPhase .erCmd .none .xchg 3 with
    status := 0x02
    transport := .oracle [some [0, 0, 0, 0]]
    trace :=
      [.sel, .xchg [0x06] (some [0]), .desel, .sel, .xchg [0x05, 0] (some [0, 2]), .desel,
        .sel, .xchg [0x05, 0] (some [0, 2]), .desel, .sel] }

theorem witness_invariant_gated : Invariant erasing where
  cfg := by decide
  phase := by decide
  select := by decide
  running := fun _ => rfl
  fresh := fun h => by cases h
  operation := rfl
  returned := fun h => by cases h
  due := fun r h => by cases h
  emptied := fun h => by cases h
  limit := fun t h => by cases h
  length := fun _ h => by rcases h with h | h <;> simp [erasing, inPhase] at h
  latch := fun _ => by decide
  bracket := by decide
  gate := ⟨by decide, fun k h => ⟨2, by cases h; exact le_refl 2, by decide⟩⟩
  events := by simp [erasing, eventLegal, frameLegal, firstByte]
  recorded := fun h => by cases h
  memory := by decide

/-- Between two polls of the wait after a reset. -/
def pacing : State :=
  { inPhase .rstWait .delay .none 0 with
    tlim := 5
    pollcnt := 4
    trace := [.sel, .xchg [0x05, 0] (some [0, 1]), .desel] }

theorem witness_invariant_delay : Invariant pacing where
  cfg := by decide
  phase := by decide
  select := by decide
  running := fun _ => rfl
  fresh := fun h => by cases h
  operation := rfl
  returned := fun h => by cases h
  due := fun r h => by cases h
  emptied := fun h => by cases h
  limit := fun t h _ => by cases h; decide
  length := fun _ h => by rcases h with h | h <;> simp [pacing, inPhase] at h
  latch := fun h => by rcases h with h | h <;> cases h
  bracket := by decide
  gate := ⟨by decide, fun k h => by cases h⟩
  events := by simp [pacing, eventLegal, frameLegal, firstByte]
  recorded := fun h => by cases h
  memory := by decide

theorem witness_delay_event : Invariant pacing ∧ ∃ t, step pacing = .next t ∧ t.trace = pacing.trace ++ [.delay 1] := by
  obtain ⟨t, h, ht⟩ := next_of_shows (o := step pacing) (p := fun t => decide (t.trace = pacing.trace ++ [.delay 1]))
    (by decide)
  exact ⟨witness_invariant_delay, t, h, by simpa using ht⟩

/-- The last permitted poll of that wait has read busy. -/
def expiring : State :=
  { answered .rstWait .read 0 (some [0, 1]) with
    tlim := 5
    pollcnt := 5
    trace := [.sel, .xchg [0x05, 0] (some [0, 1])] }

theorem witness_invariant_wait : Invariant expiring where
  cfg := by decide
  phase := by decide
  select := by decide
  running := fun _ => rfl
  fresh := fun h => by cases h
  operation := rfl
  returned := fun h => by cases h
  due := fun r h => by cases h
  emptied := fun h => by cases h
  limit := fun t h _ => by cases h; decide
  length := fun _ h => by rcases h with h | h <;> simp [expiring, answered, inPhase] at h
  latch := fun h => by rcases h with h | h <;> cases h
  bracket := by decide
  gate := ⟨by decide, fun k h => by cases h⟩
  events := by simp [expiring, eventLegal, frameLegal, firstByte]
  recorded := fun _ => ⟨.rdsr, by decide, by decide⟩
  memory := by decide

/-- After the `Desel()` of that poll: the end with `Timeout` is due. -/
def timedOut : State :=
  { inPhase .rstWait .none .none 0 with
    tlim := 5
    pollcnt := 5
    status := 1
    answer := some [0, 1]
    ending := some .timeout
    trace := [.sel, .xchg [0x05, 0] (some [0, 1]), .desel] }

theorem witness_invariant_timed_out : Invariant timedOut where
  cfg := by decide
  phase := by decide
  select := by decide
  running := fun _ => rfl
  fresh := fun h => by cases h
  operation := rfl
  returned := fun h => by cases h
  due := fun r h => by cases h; exact ⟨rfl, .inl rfl⟩
  emptied := fun h => by cases h
  limit := fun t _ h => absurd rfl h
  length := fun _ h => by rcases h with h | h <;> simp [timedOut, inPhase] at h
  latch := fun h => by rcases h with h | h <;> cases h
  bracket := by decide
  gate := ⟨by decide, fun k h => by cases h⟩
  events := by simp [timedOut, eventLegal, frameLegal, firstByte]
  recorded := fun h => by cases h
  memory := by decide

/-- The hypotheses of the three clauses; `identifying` and `concluding` meet those of the last two with the other
outcome. -/
theorem witness_timeout :
    Undisturbed expiring ∧ expiring.xp = .desel ∧ isWait expiring.main = true ∧ expiring.answer = some [0, 1] ∧
      (1 : Byte).getLsbD 0 = true ∧ expiring.tlim ≤ expiring.pollcnt ∧
      (∃ t, step expiring = .next t ∧ t.ending = some .timeout) ∧
      (∃ t, step identifying = .next t ∧ t.ending ≠ some .timeout) ∧
      timedOut.main ≠ .idle ∧ timedOut.ending = some .timeout ∧ (∃ t, step timedOut = .next t) ∧
      concluding.main ≠ .idle ∧ concluding.ending ≠ some .timeout ∧ (∃ t, step concluding = .next t) := by
  refine ⟨⟨rfl, rfl⟩, rfl, rfl, rfl, by decide, by decide, ?_, ?_, by decide, rfl, ⟨_, rfl⟩, by decide, by decide,
    ⟨_, rfl⟩⟩
  · obtain ⟨t, h, ht⟩ := next_of_shows (o := step expiring) (p := fun t => decide (t.ending = some .timeout))
      (by decide)
    exact ⟨t, h, by simpa using ht⟩
  · obtain ⟨t, h, ht⟩ := next_of_shows (o := step identifying) (p := fun t => decide (t.ending ≠ some .timeout))
      (by decide)
    exact ⟨t, h, by simpa using ht⟩

/-- Step 4 of the handshake of `sectorErase` has read the latch clear. -/
def unlatched : State :=
  { answered .weVerify .none 3 (some [0, 0]) with
    trace :=
      [.sel, .xchg [0x06] (some [0]), .desel, .sel, .xchg [0x05, 0] (some [0, 0]), .desel,
        .sel, .xchg [0x05, 0] (some [0, 0])] }

theorem witness_invariant_verify : Invariant unlatched where
  cfg := by decide
  phase := by decide
  select := by decide
  running := fun _ => rfl
  fresh := fun h => by cases h
  operation := .inr (.inl rfl)
  returned := fun h => by cases h
  due := fun r h => by cases h
  emptied := fun h => by cases h
  limit := fun t h => by cases h
  length := fun _ h => by rcases h with h | h <;> simp [unlatched, answered, inPhase] at h
  latch := fun h => by rcases h with h | h <;> cases h
  bracket := by decide
  gate := ⟨by decide, fun k h => ⟨2, by cases h; exact le_refl 2, by decide⟩⟩
  events := by simp [unlatched, eventLegal, frameLegal, firstByte]
  recorded := fun _ => ⟨.rdsr, by decide, by decide⟩
  memory := by decide

/-- After its `Desel()`: the end with `WriteEnableFailed` is due. -/
def unlatchedEnd : State :=
  { inPhase .weVerify .none .none 3 with
    answer := some [0, 0]
    ending := some .writeEnableFailed
    trace :=
      [.sel, .xchg [0x06] (some [0]), .desel, .sel, .xchg [0x05, 0] (some [0, 0]), .desel,
        .sel, .xchg [0x05, 0] (some [0, 0]), .desel] }

theorem witness_invariant_unlatched_end : Invariant unlatchedEnd where
  cfg := by decide
  phase := by decide
  select := by decide
  running := fun _ => rfl
  fresh := fun h => by cases h
  operation := .inr (.inl rfl)
  returned := fun h => by cases h
  due := fun r h => by cases h; exact ⟨rfl, .inr (.inl rfl)⟩
  emptied := fun h => by cases h
  limit := fun t h => by cases h
  length := fun _ h => by rcases h with h | h <;> simp [unlatchedEnd, inPhase] at h
  latch := fun h => by rcases h with h | h <;> cases h
  bracket := by decide
  gate := ⟨by decide, fun k h => by cases h⟩
  events := by simp [unlatchedEnd, eventLegal, frameLegal, firstByte]
  recorded := fun h => by cases h
  memory := by decide

/-- The hypotheses of the four clauses; for the last, P4's operations against a device whose latch never sets. -/
theorem witness_latch_clear :
    Undisturbed unlatched ∧ unlatched.xp = .desel ∧ unlatched.main = .weVerify ∧ unlatched.answer = some [0, 0] ∧
      (0 : Byte).getLsbD unlatched.cfg.welBit = false ∧
      (∃ t, step unlatched = .next t ∧ t.ending = some .writeEnableFailed) ∧
      unlatchedEnd.main ≠ .idle ∧ unlatchedEnd.ending = some .writeEnableFailed ∧
      (∃ t, step unlatchedEnd = .next t) ∧
      ((Procedure.operation (.sectorErase 0) { asked [] with transport := .simple { m1 with noLatch := true } }).map
        fun t => t.result) = some .writeEnableFailed ∧
      ((Procedure.operation (.pageProgram 0 1) { asked [] with transport := .simple { m1 with noLatch := true } }).map
        fun t => t.result) = some .writeEnableFailed := by
  refine ⟨⟨rfl, rfl⟩, rfl, rfl, rfl, by decide, ?_, by decide, rfl, ⟨_, rfl⟩, by decide, by decide⟩
  obtain ⟨t, h, ht⟩ := next_of_shows (o := step unlatched)
    (p := fun t => decide (t.ending = some .writeEnableFailed)) (by decide)
  exact ⟨t, h, by simpa using ht⟩

theorem witness_step_keeps : Invariant concluding ∧ (∃ t, step concluding = .next t ∧ t.main = .idle) ∧
    Invariant selecting ∧ (∃ t, step selecting = .next t ∧ t.main ≠ .idle) := by
  refine ⟨witness_invariant_end, ?_, witness_invariant_sel, ?_⟩
  · obtain ⟨t, h, ht⟩ := next_of_shows (o := step concluding) (p := fun t => decide (t.main = .idle)) (by decide)
    exact ⟨t, h, by simpa using ht⟩
  · obtain ⟨t, h, ht⟩ := next_of_shows (o := step selecting) (p := fun t => decide (t.main ≠ .idle))
      (by decide)
    exact ⟨t, h, by simpa using ht⟩

theorem witness_goes_on :
    Invariant (asked [ask 0 0 0 []]) ∧ (asked [ask 0 0 0 []]).linkHung = false := ⟨witness_invariant_idle _, rfl⟩

theorem witness_three_steps :
    Invariant selecting ∧ Undisturbed selecting ∧
      selecting.xp = .sel ∧ phaseCommand selecting = some .rdid :=
  ⟨witness_invariant_sel, ⟨rfl, rfl⟩, rfl, by decide⟩

/-- `Sel()` and `Desel()` are both made by some step, with and without a change of the line. -/
theorem witness_select_pairs :
    Undisturbed selecting ∧ selecting.xp = .sel ∧ Undisturbed identifying ∧
      identifying.xp = .desel ∧
      (∃ t, step selecting = .next t ∧ t.trace = selecting.trace ++ [.sel]) ∧
      (∃ t, step identifying = .next t ∧ t.trace = identifying.trace ++ [.desel]) := by
  refine ⟨⟨rfl, rfl⟩, rfl, ⟨rfl, rfl⟩, rfl, ?_, ?_⟩
  · obtain ⟨t, h, ht⟩ := next_of_shows (o := step selecting)
      (p := fun t => decide (t.trace = selecting.trace ++ [.sel])) (by decide)
    exact ⟨t, h, by simpa using ht⟩
  · obtain ⟨t, h, ht⟩ := next_of_shows (o := step identifying)
      (p := fun t => decide (t.trace = identifying.trace ++ [.desel])) (by decide)
    exact ⟨t, h, by simpa using ht⟩

theorem witness_gated :
    Invariant erasing ∧ ∃ (t : State) (rx : Option (List Byte)), step erasing = .next t ∧
      t.trace = erasing.trace ++ [.xchg [0x20, 0, 0, 0] rx] ∧ firstByte [0x20, 0, 0, 0] = 0x20 := by
  obtain ⟨t, h, ht⟩ := next_of_shows (o := step erasing)
    (p := fun t => decide (t.trace = erasing.trace ++ [.xchg [0x20, 0, 0, 0] (some [0, 0, 0, 0])])) (by decide)
  exact ⟨witness_invariant_gated, t, _, h, by simpa using ht, rfl⟩

/-- A run at each place of `XP`. -/
theorem witness_balance :
    Invariant selecting ∧
      ∀ n, n = 0 ∨ n = 1 ∨ n = 2 ∨ n = 3 ∨ n = 4 →
        ∃ t, steps n selecting = .next t ∧ .blockReset ∉ t.trace ∧
          t.xp = [Xp.sel, .xchg, .desel, .none, .none].getD n .sel := by
  refine ⟨witness_invariant_sel, ?_⟩
  intro n hn
  obtain ⟨t, h, ht⟩ := next_of_shows (o := steps n selecting)
    (p := fun t => decide (Event.blockReset ∉ t.trace) && decide (t.xp = [Xp.sel, .xchg, .desel, .none, .none].getD n .sel))
    (by rcases hn with rfl | rfl | rfl | rfl | rfl <;> decide)
  simp only [Bool.and_eq_true, decide_eq_true_eq] at ht
  exact ⟨t, h, ht.1, ht.2⟩

theorem witness_matrix : Invariant identifying ∧ ∃ t, steps 2 identifying = .next t ∧ t.done = true := by
  obtain ⟨t, h, ht⟩ := next_of_shows (o := steps 2 identifying) (p := fun t => t.done) (by decide)
  exact ⟨witness_invariant_desel, t, h, ht⟩

/-! #### Whole operations -/

theorem witness_procedures :
    Undisturbed (asked [ask 5 1 0 []]) ∧ isIdle (asked [ask 5 1 0 []]) = true ∧ (asked [ask 5 1 0 []]).cfg.ok = true ∧
      decode (ask 5 1 0 []).code = .ok (.read 1 0) ∧
      ∃ t, Procedure.operation (.read 1 0) { asked [ask 5 1 0 []] with port := [], txd := Memory.ofBytes [] } = some t :=
  ⟨⟨rfl, rfl⟩, rfl, by decide, rfl, _, rfl⟩

theorem witness_ends :
    Invariant selecting ∧ Undisturbed selecting ∧
      selecting.main ≠ .idle := ⟨witness_invariant_sel, ⟨rfl, rfl⟩, by decide⟩

/-- V2.7, V2.8 and V2.13: each of the three results. -/
theorem witness_wait_ready :
    (Procedure.waitReady 2 { asked [] with transport := .simple { m1 with busyCnt := 2 } }).1 = .success ∧
      (Procedure.waitReady 2 { asked [] with transport := .simple { m1 with busyForever := true } }).1 = .timeout ∧
      (Procedure.waitReady 5
        { asked [] with transport := .simple { m1 with busyCnt := 1, failAt := some 2 } }).1 = .transportError := by
  decide

/-- V3.1, V3.2 (M1 with `nolatch`), V3.5 and V3.8: each of the four results. -/
theorem witness_write_enable :
    (Procedure.writeEnable (asked [])).1 = .success ∧
      (Procedure.writeEnable { asked [] with transport := .simple { m1 with noLatch := true } }).1 =
        .writeEnableFailed ∧
      (Procedure.writeEnable { asked [] with transport := .simple { m1 with busyCnt := 4 } }).1 = .timeout ∧
      (Procedure.writeEnable { asked [] with transport := .simple { m1 with failAt := some 2 } }).1 =
        .transportError := by decide

theorem witness_no_information :
    SameSurroundings (asked []) { asked [] with status := 7, id0 := 8, pollcnt := 9, addr := 3, result := .busy } ∧
      (asked []).rxd.wf ∧ (∃ u, Procedure.operation .readJedecID (asked []) = some u) ∧
      ∃ v, Procedure.operation .readJedecID
        { asked [] with status := 7, id0 := 8, pollcnt := 9, addr := 3, result := .busy } = some v :=
  ⟨⟨rfl, rfl, rfl, rfl, rfl, rfl, rfl⟩, by decide, ⟨_, rfl⟩, ⟨_, rfl⟩⟩

/-- P2 steps 2 and 3. -/
def roundTrip : State :=
  asked [⟨.request 4 0x001000 (BitVec.ofNat 16 4), [0xDE, 0xAD, 0xBE, 0xEF]⟩,
    ⟨.request 5 0x001000 (BitVec.ofNat 16 4), []⟩]

theorem witness_round_trip :
    Undisturbed roundTrip ∧ isIdle roundTrip = true ∧ roundTrip.cfg.ok = true ∧ roundTrip.cfg.welBit = 1 ∧
      roundTrip.rxd.wf ∧ roundTrip.transport = .simple m1 ∧ m1.mem.wf ∧ m1.busyCnt = 0 ∧ m1.busyForever = false ∧
      m1.noLatch = false ∧ m1.failAt = none ∧ m1.bPp ≤ roundTrip.cfg.toProg.toNat ∧
      [(0xDE : Byte), 0xAD, 0xBE, 0xEF].length ≤ roundTrip.cfg.pageSize ∧
      roundTrip.port = [⟨.request 4 0x001000 (BitVec.ofNat 16 [(0xDE : Byte), 0xAD, 0xBE, 0xEF].length),
        [0xDE, 0xAD, 0xBE, 0xEF]⟩, ⟨.request 5 0x001000 (BitVec.ofNat 16 [(0xDE : Byte), 0xAD, 0xBE, 0xEF].length), []⟩] :=
  ⟨⟨rfl, rfl⟩, rfl, by decide, rfl, by decide, rfl, by decide, rfl, rfl, rfl, rfl, by decide, by decide, rfl⟩

theorem witness_identify :
    Undisturbed (asked [ask 1 0 0 []]) ∧ isIdle (asked [ask 1 0 0 []]) = true ∧
      (asked [ask 1 0 0 []]).port = [ask 1 0 0 []] ∧ (ask 1 0 0 []).code = .request 1 0 0 :=
  ⟨⟨rfl, rfl⟩, rfl, rfl, rfl⟩

theorem witness_reset_scripts (script : List (Option (List Byte))) :
    Undisturbed { asked [ask 0 0 0 []] with transport := .oracle script } ∧
      isIdle { asked [ask 0 0 0 []] with transport := .oracle script } = true ∧
      ({ asked [ask 0 0 0 []] with transport := .oracle script } : State).port = [ask 0 0 0 []] ∧
      (ask 0 0 0 []).code = .request 0 0 0 ∧
      ({ asked [ask 0 0 0 []] with transport := .oracle script } : State).transport = .oracle script :=
  ⟨⟨rfl, rfl⟩, rfl, rfl, rfl, rfl⟩

end Sys2Proof.Tests
end

section
/-! The encoding family (30_encoding.md): the address bytes of a frame and the weights that give the address back, and
the opcodes that are named and never emitted. -/

namespace Sys2Proof

/-- Appending as arithmetic: the front word weighs `2 ^ w`. -/
theorem toNat_append_eq_add {v w : Nat} (a : BitVec v) (b : BitVec w) :
    (a ++ b).toNat = a.toNat * 2 ^ w + b.toNat := by
  rw [BitVec.toNat_append, ← Nat.shiftLeft_add_eq_or_of_lt b.isLt, Nat.shiftLeft_eq]

/-- The value of the address that three bytes spell, by R82's weights. -/
theorem toNat_joinAddr (x y z : Byte) :
    (joinAddr x y z).toNat = x.toNat * 65536 + y.toNat * 256 + z.toNat := by
  rw [joinAddr, toNat_append_eq_add, toNat_append_eq_add]
  omega

/-- R82's weights give an address back from its three bytes. -/
theorem toNat_eq_weighted_bytes (a : Addr) :
    a.toNat = (a.extractLsb' 16 8).toNat * 65536 + (a.extractLsb' 8 8).toNat * 256 + (a.extractLsb' 0 8).toNat :=
  calc a.toNat
    _ = (joinAddr (a.extractLsb' 16 8) (a.extractLsb' 8 8) (a.extractLsb' 0 8)).toNat := by rw [joinAddr_extract]
    _ = _ := toNat_joinAddr _ _ _

/-- Settles O2: each frame is its format's definition written out (R81), and the weights give the address back. -/
theorem addressBytesAreBigEndian : Obligations.AddressBytesAreBigEndian := by
  intro c a data n
  have se : encode c (.se a) = .frame (opSe :: addrBytes a) := rfl
  have pp : encode c (.pp a data) = .frame (opPp :: (addrBytes a ++ data)) := rfl
  have rd : encode c (.rd a n) = .frame (opRd :: (addrBytes a ++ List.replicate n.toNat c.filler)) := rfl
  exact ⟨se, pp, rd, rfl, rfl, rfl, rfl, rfl, toNat_eq_weighted_bytes a, by decide⟩

namespace Machine

@[simp] theorem exec_wrsr (s : State) : exec .wrsr s = .refused .writeStatusNeverEmitted := rfl

@[simp] theorem exec_wrdi (s : State) : exec .wrdi s = .refused .writeDisableNeverEmitted := rfl

@[simp] theorem exec_rstff (s : State) : exec .rstff s = .refused .resetFFNeverEmitted := rfl

/-- Settles O24: no arm of the three looks at the state (R96 to R98). -/
theorem neverEmittedOpcodesStop : Obligations.NeverEmittedOpcodesStop :=
  fun s => ⟨exec_wrsr s, exec_wrdi s, exec_rstff s⟩

end Machine

end Sys2Proof
end

section
/-! The transport family (40_transport_transaction.md): which requests a step adds to the trace and what each does to
`SEL`, said once; then `Sel()` and `Desel()` (R120, R121) and `Delay(n)` (R123). -/

namespace Sys2Proof.Machine

variable {s t : State}

/-! ### Starts and reports make no request -/

@[simp] theorem lengthChecked_trace (r : Result) (m : Main) (s : State) : (lengthChecked r m s).trace = s.trace := by
  unfold lengthChecked; split <;> simp

@[simp] theorem lengthChecked_sel (r : Result) (m : Main) (s : State) : (lengthChecked r m s).sel = s.sel := by
  unfold lengthChecked; split <;> simp

/-- A start makes no request (R175, R216). -/
theorem exec_operation_keeps {i : Instr} (hi : isOperation i = true) (h : exec i s = .next t) :
    t.trace = s.trace ∧ t.sel = s.sel := by
  cases i
  case reset | readJedecID | writeEnable | sectorErase | pageProgram | read =>
    simp only [exec, execReset, execReadJedecID, execWriteEnable, execSectorErase, execPageProgram, execRead] at h
    obtain ⟨-, rfl⟩ := startOp_next h
    simp
  all_goals cases hi

theorem AfterStatus.keeps (h : AfterStatus s t) : t.trace = s.trace ∧ t.sel = s.sel := by
  cases h <;> simp

/-- The outcome of a transaction is decided in the step of its `Desel()`, with no request of its own (R191, R193). -/
theorem goOf_keeps (i : Instr) (rx : List Byte) (s : State) :
    (goOf i rx s).trace = s.trace ∧ (goOf i rx s).sel = s.sel := by
  cases i
  case rdsr => exact (statusRead_after rx s).keeps
  all_goals simp [goOf, identified, dataRead]

theorem report_keeps (i : Instr) (answer : Option (List Byte)) (s : State) :
    (orTransportError (goOf i) answer s).trace = s.trace ∧ (orTransportError (goOf i) answer s).sel = s.sel := by
  cases answer with
  | none => simp
  | some rx => exact goOf_keeps i rx s

/-! ### What a step adds to the trace -/

/-- The phases that delay by `n` ms (R192, R194): the poll pacing and the gap by 1, the settle time by 2. -/
def DelayPhase (n : Nat) (s : State) : Prop :=
  (n = 1 ∧ (s.main = .rstGap ∨ (isWait s.main = true ∧ s.poll = .delay))) ∨ (n = 2 ∧ s.main = .rstSettle)

/-- No transaction is in progress while a delay is next (R190). -/
theorem xp_of_delayPhase {n : Nat} (h : phaseOk s = true) (hd : DelayPhase n s) : s.xp = .none := by
  rcases hd with ⟨-, hm | ⟨hw, hp⟩⟩ | ⟨-, hm⟩
  · simp_all [phaseOk, tripleOk, isDelay]
  · have he := ending_of_active h (.inr (.inl (by simp [hp])))
    cases hm : s.main <;> simp_all [phaseOk, tripleOk, isDelay, isWait]
  · simp_all [phaseOk, tripleOk, isDelay]

/-- The events a step from `s` to `t` may add, each with where it is made and what becomes of `SEL`. -/
inductive Adds (s t : State) : List Event → Prop where
  | nothing : t.sel = s.sel → Adds s t []
  | blockReset : s.resetLine = true → Adds s t [.blockReset]
  | sel : s.xp = .sel → t.sel = true → Adds s t [.sel]
  | xchg (tx : List Byte) (rx : Option (List Byte)) : s.xp = .xchg → t.sel = s.sel → Adds s t [.xchg tx rx]
  | desel : s.xp = .desel → t.sel = false → Adds s t [.desel]
  | delay (n : Nat) : DelayPhase n s → s.xp = .none → t.sel = s.sel → Adds s t [.delay n]

theorem exec_command_adds {i : Instr} (hi : isEmitted i = true) (h : exec i s = .next t) :
    ∃ added, t.trace = s.trace ++ added ∧ Adds s t added := by
  obtain ⟨-, ⟨hx, rfl⟩ | ⟨hx, rfl⟩ | ⟨hx, -, rfl⟩ | ⟨hx, rx, -, rfl⟩⟩ := exec_command_next hi h
  · exact ⟨_, rfl, .sel hx rfl⟩
  · exact ⟨_, rfl, .xchg _ _ hx rfl⟩
  · exact ⟨_, rfl, .desel hx rfl⟩
  · obtain ⟨htrace, hsel⟩ := goOf_keeps i rx (deselReq s)
    exact ⟨_, htrace, .desel hx hsel⟩

/-- A step adds at most one event (R191), and only where `Adds` says. -/
theorem step_adds (h : step s = .next t) : ∃ added, t.trace = s.trace ++ added ∧ Adds s t added := by
  have delay {n : Nat} (hp : phaseOk s = true) (hd : DelayPhase n s) : t.sel = s.sel → Adds s t [.delay n] :=
    .delay n hd (xp_of_delayPhase hp hd)
  cases step_next h with
  | reset hr ht => exact ⟨_, by rw [ht, blockReset_trace], .blockReset hr⟩
  | quiet _ _ _ ht => exact ⟨[], by simp [ht], .nothing (by rw [ht])⟩
  | reserved r rest _ _ _ ht => exact ⟨[], by simp [ht], .nothing (by rw [ht])⟩
  | start r rest i _ _ _ _ hi he =>
    obtain ⟨htrace, hsel⟩ := exec_operation_keeps hi he
    exact ⟨[], by simp [htrace], .nothing (by simp [hsel])⟩
  | command i _ _ _ hi he => exact exec_command_adds hi he
  | ends r _ _ _ ht => exact ⟨[], by simp [ht], .nothing (by simp [ht])⟩
  | gap _ hp _ hm ht => exact ⟨_, by simp [ht], delay hp (.inl ⟨rfl, .inl hm⟩) (by simp [ht])⟩
  | settle _ hp _ hm ht => exact ⟨_, by simp [ht], delay hp (.inr ⟨rfl, hm⟩) (by simp [ht])⟩
  | pace _ hp _ hw hd ht => exact ⟨_, by simp [ht], delay hp (.inl ⟨rfl, .inr ⟨hw, hd⟩⟩) (by simp [ht])⟩

theorem adds_of_trace {added : List Event} (h : step s = .next t) (ht : t.trace = s.trace ++ added) :
    Adds s t added := by
  obtain ⟨added', ht', ha⟩ := step_adds h
  rwa [List.append_cancel_left (ht.symm.trans ht')]

/-- `SEL` rises only at a `Sel()`. -/
theorem Adds.xp_of_rise {added : List Event} (h : Adds s t added) (hr : s.resetLine = false) (hs : s.sel = false)
    (ht : t.sel = true) : s.xp = .sel := by
  cases h with
  | sel hx _ => exact hx
  | blockReset hr' => simp [hr] at hr'
  | desel _ ht' => simp [ht] at ht'
  | nothing hk | xchg _ _ _ hk | delay _ _ _ hk => simp [hs, ht] at hk

/-- `SEL` falls only at a `Desel()`. -/
theorem Adds.xp_of_fall {added : List Event} (h : Adds s t added) (hr : s.resetLine = false) (hs : s.sel = true)
    (ht : t.sel = false) : s.xp = .desel := by
  cases h with
  | desel hx _ => exact hx
  | blockReset hr' => simp [hr] at hr'
  | sel _ ht' => simp [ht] at ht'
  | nothing hk | xchg _ _ _ hk | delay _ _ _ hk => simp [hs, ht] at hk

/-! ### A command can make its request -/

/-- Past the length check, and with no end due, `LEN` is within the page (R216). -/
theorem Invariant.len_le (hi : Invariant s) (he : s.ending = none) (hm : s.main = .ppCmd ∨ s.main = .rdCmd) :
    s.len.toNat ≤ s.cfg.pageSize := by
  have hidle : s.main ≠ .idle := by rcases hm with hm | hm <;> simp [hm]
  have hop : s.op = 4 ∨ s.op = 5 := by
    have hphase := hi.operation
    rcases hm with hm | hm <;> simp_all [phaseOf]
  simpa [he] using hi.length hidle hop

/-- The frame of the phase's command is within the bound of R122. -/
theorem Invariant.frame_fits {i : Instr} (hi : Invariant s) (hc : phaseCommand s = some i) :
    (frameOf s.cfg i).length ≤ s.cfg.pageSize + 4 := by
  have he := ending_of_phaseCommand hc
  have hphase := (phaseCommand_spec hi.phase hc).1.2
  cases i
  case pp a data =>
    obtain ⟨hm, -⟩ := hphase
    obtain ⟨-, rfl⟩ : _ ∧ _ := by simpa [phaseCommand, he, hm] using hc
    simpa [frameOf] using hi.len_le he (.inl hm)
  case rd a n =>
    obtain ⟨hm, -⟩ := hphase
    obtain ⟨-, rfl⟩ : _ ∧ _ := by simpa [phaseCommand, he, hm] using hc
    simpa [frameOf] using hi.len_le he (.inr hm)
  all_goals simp [frameOf]

theorem Invariant.canRun {i : Instr} (hi : Invariant s) (hh : s.linkHung = false) (hc : phaseCommand s = some i) :
    CanRun i s :=
  ⟨(phaseCommand_spec hi.phase hc).1, hh, hi.frame_fits hc⟩

/-- A transaction in progress makes its next request, for a command that can. -/
theorem Invariant.step_active (hi : Invariant s) (hu : Undisturbed s) (hx : s.xp ≠ .none) :
    ∃ i, CanRun i s ∧ step s = exec i s := by
  obtain ⟨hr, hh⟩ := hu
  obtain ⟨i, hc⟩ := phaseCommand_of_active hi.phase hx
  exact ⟨i, hi.canRun hh hc, step_command hr hi.phase hc⟩

theorem Invariant.step_sel (hi : Invariant s) (hu : Undisturbed s) (hx : s.xp = .sel) :
    step s = .next (selReq s) := by
  obtain ⟨i, hcan, hstep⟩ := hi.step_active hu (by simp [hx])
  rw [hstep, exec_sel hcan hx]

theorem Invariant.step_desel (hi : Invariant s) (hu : Undisturbed s) (hx : s.xp = .desel) :
    ∃ i, step s = .next (orTransportError (goOf i) s.answer (deselReq s)) := by
  obtain ⟨i, hcan, hstep⟩ := hi.step_active hu (by simp [hx])
  exact ⟨i, by rw [hstep, exec_desel hcan hx]⟩

/-! ### The obligations -/

/-- Settles O40: a command in `X_SEL` or `X_DESEL` can run, and `Adds` says where else the event or the change of `SEL`
could come from. -/
theorem selectRequestsPairUp : Obligations.SelectRequestsPairUp := by
  intro s hi hu
  refine ⟨fun hx => ?_, fun hx => ?_, fun t h hc => ?_, fun t h hc => ?_⟩
  · exact ⟨selReq s, hi.step_sel hu hx, by simp [hi.select, hx], rfl, rfl⟩
  · obtain ⟨i, hstep⟩ := hi.step_desel hu hx
    obtain ⟨htrace, hsel⟩ := report_keeps i s.answer (deselReq s)
    exact ⟨_, hstep, by simp [hi.select, hx], hsel, htrace⟩
  · rcases hc with ht | ⟨hs, ht⟩
    · cases adds_of_trace h ht with
      | sel hx _ => exact hx
    · obtain ⟨_, -, ha⟩ := step_adds h
      exact ha.xp_of_rise hu.1 hs ht
  · rcases hc with ht | ⟨hs, ht⟩
    · cases adds_of_trace h ht with
      | desel hx _ => exact hx
    · obtain ⟨_, -, ha⟩ := step_adds h
      exact ha.xp_of_fall hu.1 hs ht

/-- Settles O42: `Adds` says where a delay comes from, with `XP = X_NONE` there, hence `SEL = 0` by the invariant. -/
theorem delaysAreEventsOutsideEveryBracket : Obligations.DelaysAreEventsOutsideEveryBracket := by
  refine ⟨fun _ _ => rfl, fun s t n hi h ht => ?_, fun s hu hp hm => ?_⟩
  · cases adds_of_trace h ht with
    | delay _ hd hx hsel =>
      have hs : s.sel = false := by simp [hi.select, hx]
      exact ⟨hs, hsel.trans hs, hd⟩
  · obtain ⟨hr, hh⟩ := hu
    rcases hm with hm | hm | ⟨hw, hd⟩
    · exact ⟨_, (step_gap hr hp hm).trans (delayStep_runs hh)⟩
    · exact ⟨_, (step_settle hr hp hm).trans (delayStep_runs hh)⟩
    · exact ⟨_, (step_pace hr hp hw hd).trans (delayStep_runs hh)⟩

end Sys2Proof.Machine
end

section
/-! The operation family (42_operations.md): the three steps of a command's transaction are the procedures' `Xact`
(R126, R193), and readJedecID runs its procedure (R164). -/

namespace Sys2Proof.Machine

variable {s : State} {i : Instr}

/-! ### A transaction from its `Sel()` to its report -/

/-- The phase of `s` has this command to run, and nothing stops its next request (R122, R192). -/
structure Active (i : Instr) (s : State) : Prop where
  undisturbed : Undisturbed s
  phase : phaseOk s = true
  command : phaseCommand s = some i
  fits : (frameOf s.cfg i).length ≤ s.cfg.pageSize + 4

theorem Active.canRun (h : Active i s) : CanRun i s :=
  ⟨(phaseCommand_spec h.phase h.command).1, h.undisturbed.2, h.fits⟩

theorem Active.step_eq (h : Active i s) : step s = exec i s := step_command h.undisturbed.1 h.phase h.command

theorem Active.selReq (h : Active i s) (hx : s.xp ≠ .none) : Active i (selReq s) :=
  ⟨h.undisturbed, tripleOk_active h.phase hx (by simp), h.command, h.fits⟩

theorem Active.xchgReq (h : Active i s) (hx : s.xp ≠ .none) (tx : List Byte) : Active i (xchgReq tx s) :=
  ⟨h.undisturbed, tripleOk_active h.phase hx (by simp), h.command, h.fits⟩

/-- A command's three steps are `Xact` of its frame, with the outcome that the command draws from the report. -/
theorem Active.steps_xact (h : Active i s) (hx : s.xp = .sel) :
    steps 3 s = .next (orTransportError (goOf i) (Procedure.xact (frameOf s.cfg i) s).1
      (Procedure.xact (frameOf s.cfg i) s).2) := by
  have h₁ := h.selReq (by simp [hx])
  have h₂ := h₁.xchgReq (by simp) (frameOf s.cfg i)
  have sel : step s = .next (Machine.selReq s) := h.step_eq.trans (exec_sel h.canRun hx)
  have xchg := h₁.step_eq.trans (exec_xchg h₁.canRun (selReq_xp s))
  have desel := h₂.step_eq.trans (exec_desel h₂.canRun (xchgReq_xp _ _))
  simp only [selReq_cfg] at xchg
  simp only [steps, sel, xchg, desel]
  rfl

/-- An end that is due is made (R191); it overwrites what `endDue` wrote. -/
theorem step_endDue (r : Result) (hr : s.resetLine = false) (hm : s.main ≠ .idle) (hd : isDelay s.main = false) :
    step (endDue r s) = .next (endOp r s) :=
  step_end (r := r) hr (by simp [phaseOk, tripleOk, hm, hd]) rfl

theorem steps_one (s : State) : steps 1 s = step s := by
  simp only [steps]
  cases step s <;> rfl

/-! ### readJedecID -/

/-- The machine after the start of readJedecID: the request is taken and the phase `S_ID` entered (R175, R192). -/
def identifyStarted (r : Request) (rest : List Request) (s : State) : State :=
  enter .id { takeRequest r rest s with op := hostReadJedecID, done := false }

/-- The machine when readJedecID has ended, as its procedure says (R164, R175). -/
def identifyEnded (r : Request) (rest : List Request) (s : State) : State :=
  endOp (Procedure.readJedecID (identifyStarted r rest s)).1 (Procedure.readJedecID (identifyStarted r rest s)).2

/-- The start is one step (R175). -/
theorem step_readJedecID {r : Request} {rest : List Request} {a : Addr} {n : Len} (hr : s.resetLine = false)
    (hi : isIdle s = true) (hp : s.port = r :: rest) (hc : r.code = .request 1 a n) :
    step s = .next (identifyStarted r rest s) := by
  have hd : decode r.code = .ok .readJedecID := by rw [hc]; rfl
  rw [step_request hr hi hp, hd]
  exact startOp_idle hi

theorem identifyStarted_active (r : Request) (rest : List Request) (hu : Undisturbed s) (hi : isIdle s = true) :
    Active .rdid (identifyStarted r rest s) := by
  obtain ⟨-, -, -, he⟩ := isIdle_iff.mp hi
  have he : (identifyStarted r rest s).ending = none := he
  refine ⟨hu, ?_, ?_, by simp [frameOf]⟩
  · simp [phaseOk, he]; rfl
  · simp [phaseCommand, he]; rfl

/-- The report of read-id makes the end of the procedure's result due (R164, R213). -/
theorem report_rdid (s : State) :
    orTransportError (goOf .rdid) (Procedure.xact (frameId s.cfg) s).1 (Procedure.xact (frameId s.cfg) s).2 =
      endDue (Procedure.readJedecID s).1 (Procedure.readJedecID s).2 := by
  simp only [Procedure.readJedecID]
  rcases Procedure.xact (frameId s.cfg) s with ⟨_ | rx, t⟩ <;> rfl

section
variable {rx : List Byte}

theorem Procedure.readJedecID_failed (h : (s.transport.exchange (s.trace ++ [.sel]) (frameId s.cfg)).1 = none) :
    readJedecID s = (.transportError, deselReq (xchgReq (frameId s.cfg) (selReq s))) := by
  simp [readJedecID, xact, h]

theorem Procedure.readJedecID_answered
    (h : (s.transport.exchange (s.trace ++ [.sel]) (frameId s.cfg)).1 = some rx) :
    readJedecID s = (.success, { deselReq (xchgReq (frameId s.cfg) (selReq s)) with
      id0 := rxByte rx 1, id1 := rxByte rx 2, id2 := rxByte rx 3 }) := by
  simp [readJedecID, xact, h]

/-- The procedure is its transaction, and writes nothing else but `ID` (R164). -/
theorem Procedure.readJedecID_state (s : State) : ∃ b0 b1 b2, (readJedecID s).2 =
    { deselReq (xchgReq (frameId s.cfg) (selReq s)) with id0 := b0, id1 := b1, id2 := b2 } := by
  cases h : (s.transport.exchange (s.trace ++ [.sel]) (frameId s.cfg)).1 with
  | none => exact ⟨s.id0, s.id1, s.id2, by rw [readJedecID_failed h]; rfl⟩
  | some rx => exact ⟨_, _, _, by rw [readJedecID_answered h]⟩

end

/-- The start, the transaction and the end of readJedecID: the machine ends where its procedure does (R164, R175). -/
theorem steps_readJedecID {r : Request} {rest : List Request} {a : Addr} {n : Len} (hu : Undisturbed s)
    (hi : isIdle s = true) (hp : s.port = r :: rest) (hc : r.code = .request 1 a n) :
    steps 5 s = .next (identifyEnded r rest s) := by
  have start : steps 1 s = .next (identifyStarted r rest s) := (steps_one s).trans (step_readJedecID hu.1 hi hp hc)
  have transaction := (identifyStarted_active r rest hu hi).steps_xact rfl
  have report := report_rdid (identifyStarted r rest s)
  obtain ⟨b0, b1, b2, hstate⟩ := Procedure.readJedecID_state (identifyStarted r rest s)
  have conclusion := step_endDue (Procedure.readJedecID (identifyStarted r rest s)).1
    ((congrArg State.resetLine hstate).trans hu.1) (by rw [hstate]; exact nofun) (by rw [hstate]; rfl)
  exact steps_trans (steps_trans start (transaction.trans (congrArg _ report))) ((steps_one _).trans conclusion)

/-- A failed exchange: `TransportError`, with `ID` neither written nor valid (R164). -/
theorem identifyEnded_failed (r : Request) (rest : List Request)
    (h : (s.transport.exchange (s.trace ++ [.sel]) (frameId s.cfg)).1 = none) :
    (identifyEnded r rest s).result = .transportError ∧
      ((identifyEnded r rest s).id0, (identifyEnded r rest s).id1, (identifyEnded r rest s).id2) =
        (s.id0, s.id1, s.id2) ∧ idOut (identifyEnded r rest s) = none := by
  rw [identifyEnded, Procedure.readJedecID_failed (s := identifyStarted r rest s) h]
  exact ⟨rfl, rfl, rfl⟩

/-- A completed exchange: `Success`, with `ID` the last three bytes as they came (R164). -/
theorem identifyEnded_answered (r : Request) (rest : List Request) {r0 r1 r2 r3 : Byte}
    (h : (s.transport.exchange (s.trace ++ [.sel]) (frameId s.cfg)).1 = some [r0, r1, r2, r3]) :
    (identifyEnded r rest s).result = .success ∧ idOut (identifyEnded r rest s) = some (r1, r2, r3) := by
  rw [identifyEnded, Procedure.readJedecID_answered (s := identifyStarted r rest s) h]
  exact ⟨rfl, rfl⟩

/-- Settles O54: the run is that of the procedure, which writes nothing but `ID` after its transaction, and whose two
outcomes are read off the transport's answer. -/
theorem readJedecIdFromStartToEnd : Obligations.ReadJedecIdFromStartToEnd := by
  intro s r rest a n hu hi hp hc
  obtain ⟨b0, b1, b2, hstate⟩ := Procedure.readJedecID_state (identifyStarted r rest s)
  refine ⟨5, identifyEnded r rest s, _, steps_readJedecID hu hi hp hc, rfl, ?trace, rfl, rfl,
    (congrArg State.sel hstate :), (congrArg State.op hstate :), (congrArg State.cfg hstate :),
    (congrArg State.addr hstate :), (congrArg State.len hstate :), (congrArg State.status hstate :),
    (congrArg State.pollcnt hstate :), (congrArg State.tlim hstate :), (congrArg State.port hstate :),
    (congrArg State.rxd hstate :), identifyEnded_failed r rest, fun r0 r1 r2 r3 h => ?success, fun r0 h => ?string,
    fun q h => Transport.exchange_length h⟩
  case trace => exact (congrArg State.trace hstate).trans (by simp; rfl)
  case success =>
    obtain ⟨hresult, hid⟩ := identifyEnded_answered r rest h
    exact ⟨hresult, hid, by rw [hid]; rfl⟩
  case string =>
    obtain ⟨-, hid⟩ := identifyEnded_answered r rest h
    rw [hid]
    decide

end Sys2Proof.Machine
end

section
/-! The exceptions family (60_exceptions.md): how the end of an operation comes to be due, and the two steps that follow
(R214); which status read makes which end due (R212, R215); and what the procedures send before `WriteEnableFailed`. -/

namespace Sys2Proof.Machine

variable {s t : State} {r : Result} {i : Instr}

/-! ### How an end comes to be due -/

/-- The start that the length check of an operation rejects, before the end is due (R216); `m` is the phase behind the
check (log 1). -/
def rejectedStart (op : BitVec 3) (m : Main) (a : Addr) (n : Len) (q : Request) (rest : List Request)
    (s : State) : State :=
  { takeRequest q rest s with op := op, done := false, addr := a, len := n, main := m }

/-- The operations with a length check, the result of a rejection and the phase behind the check (R216). -/
inductive Rejects : BitVec 3 → Result → Main → Prop where
  | program : Rejects hostPageProgram .programmingFailed .weWait1
  | read : Rejects hostRead .readFailed .rdCheck

/-- The steps that can make an end due (R214): the `Desel()` of the phase's command, or a rejected start. -/
inductive ComesDue (s t : State) : Prop where
  | report (i : Instr) : phaseCommand s = some i → s.xp = .desel →
      t = orTransportError (goOf i) s.answer (deselReq s) → ComesDue s t
  | rejected {op : BitVec 3} {r : Result} {m : Main} (a : Addr) (n : Len) (q : Request) (rest : List Request) :
      Rejects op r m → s.main = .idle → tooLong s.cfg n = true →
      t = endDue r (rejectedStart op m a n q rest s) → ComesDue s t

theorem lengthChecked_due {r' : Result} {m : Main} (hd : (lengthChecked r' m s).ending = some r)
    (he : s.ending = none) :
    tooLong s.cfg s.len = true ∧ lengthChecked r' m s = endDue r' { s with main := m } := by
  cases hl : tooLong s.cfg s.len with
  | false => rw [lengthChecked_ok hl] at hd; simp [he] at hd
  | true => exact ⟨rfl, lengthChecked_rejects hl⟩

theorem start_comesDue {q : Request} {rest : List Request} (hidle : isIdle s = true) (hi : isOperation i = true)
    (h : exec i (takeRequest q rest s) = .next t) (hd : t.ending = some r) : ComesDue s t := by
  obtain ⟨hm, -, -, he⟩ := isIdle_iff.mp hidle
  cases i
  case reset | readJedecID | writeEnable | sectorErase =>
    simp only [exec, execReset, execReadJedecID, execWriteEnable, execSectorErase] at h
    obtain ⟨-, rfl⟩ := startOp_next h
    simp [he] at hd
  case pageProgram a n =>
    simp only [exec, execPageProgram] at h
    obtain ⟨-, rfl⟩ := startOp_next h
    obtain ⟨hlong, heq⟩ := lengthChecked_due hd he
    exact .rejected a n q rest .program hm hlong heq
  case read a n =>
    simp only [exec, execRead] at h
    obtain ⟨-, rfl⟩ := startOp_next h
    obtain ⟨hlong, heq⟩ := lengthChecked_due hd he
    exact .rejected a n q rest .read hm hlong heq
  all_goals cases hi

/-- In `X_DESEL` a step of the phase's command is the `Desel()` and the report (R193). -/
theorem step_report (hr : s.resetLine = false) (hc : phaseCommand s = some i) (hx : s.xp = .desel)
    (h : step s = .next t) : t = orTransportError (goOf i) s.answer (deselReq s) := by
  have hp := phaseOk_of_step hr h
  rw [step_command hr hp hc] at h
  obtain ⟨-, ⟨hx', -⟩ | ⟨hx', -⟩ | ⟨-, ha, ht⟩ | ⟨-, rx, ha, ht⟩⟩ :=
    exec_command_next (phaseCommand_spec hp hc).2.2.1 h
  · simp [hx] at hx'
  · simp [hx] at hx'
  · rw [ha]; exact ht
  · rw [ha]; exact ht

theorem step_comesDue (hr : s.resetLine = false) (h : step s = .next t) (hd : t.ending = some r) :
    ComesDue s t := by
  cases step_next h with
  | reset hr' _ => simp [hr] at hr'
  | quiet _ hidle _ ht => simp [ht, (isIdle_iff.mp hidle).2.2.2] at hd
  | reserved _ _ _ hidle _ ht => simp [ht, (isIdle_iff.mp hidle).2.2.2] at hd
  | start _ _ i _ hidle _ _ hi he => exact start_comesDue hidle hi he hd
  | command i _ _ hc hi he =>
    have hnone := ending_of_phaseCommand hc
    obtain ⟨-, ⟨-, rfl⟩ | ⟨-, rfl⟩ | ⟨hx, -⟩ | ⟨hx, -⟩⟩ := exec_command_next hi he
    · simp [hnone] at hd
    · simp [hnone] at hd
    all_goals exact .report i hc hx (step_report hr hc hx h)
  | ends _ _ _ _ ht => simp [ht] at hd
  | gap _ hp _ hm ht =>
    have hnone := ending_of_active hp (.inr (.inr (by simp [hm, isDelay])))
    simp [ht, hnone] at hd
  | settle _ hp _ hm ht =>
    have hnone := ending_of_active hp (.inr (.inr (by simp [hm, isDelay])))
    simp [ht, hnone] at hd
  | pace _ hp _ _ hdelay ht =>
    have hnone := ending_of_active hp (.inr (.inl (by simp [hdelay])))
    simp [ht, hnone] at hd

/-! ### An end that is due is the next step -/

theorem AfterStatus.eq_endDue (h : AfterStatus s t) (he : s.ending = none) (hd : t.ending = some r) :
    t = endDue r s := by
  cases h
  case waitDone | timeout | noLatch | enabled | deviceBusy =>
    obtain rfl := Option.some.inj hd
    rfl
  case toCommand | toVerify | pace | toErase | toProgram | toRead => simp [he] at hd

/-- A report that makes an end due stays in its phase. -/
theorem report_eq_endDue {answer : Option (List Byte)} (hi : isEmitted i = true) (he : s.ending = none)
    (hd : (orTransportError (goOf i) answer s).ending = some r) :
    ∃ u, orTransportError (goOf i) answer s = endDue r u ∧ u.main = s.main ∧ u.resetLine = s.resetLine := by
  cases answer with
  | none => obtain rfl := Option.some.inj hd; exact ⟨s, rfl, rfl, rfl⟩
  | some rx =>
    cases i
    case rdsr => exact ⟨_, (statusRead_after rx s).eq_endDue he hd, rfl, rfl⟩
    case rdid | rd => obtain rfl := Option.some.inj hd; exact ⟨_, rfl, rfl, rfl⟩
    case rsten | rst | wren | se | pp => simp [goOf, he] at hd
    all_goals cases hi

theorem not_isDelay_of_active (h : phaseOk s = true) (hx : s.xp ≠ .none) : isDelay s.main = false := by
  cases hm : s.main <;> simp_all [phaseOk, tripleOk, isDelay]

/-- A step that makes an end due leaves a phase that may end (R190). -/
theorem step_eq_endDue (hr : s.resetLine = false) (h : step s = .next t) (hd : t.ending = some r) :
    ∃ u, t = endDue r u ∧ u.main ≠ .idle ∧ isDelay u.main = false ∧ u.resetLine = false := by
  cases step_comesDue hr h hd with
  | report i hc hx ht =>
    have hp := phaseOk_of_step hr h
    obtain ⟨-, hx, hi, hm⟩ := phaseCommand_spec hp hc
    have hdelay := not_isDelay_of_active hp hx
    subst ht
    obtain ⟨u, ht, hmain, hreset⟩ := report_eq_endDue hi (s := deselReq s) (ending_of_phaseCommand hc) hd
    exact ⟨u, ht, by rwa [hmain], by rwa [hmain], hreset.trans hr⟩
  | rejected a n q rest hreject _ _ ht =>
    subst ht
    obtain rfl := Option.some.inj hd
    cases hreject <;> exact ⟨_, rfl, nofun, rfl, hr⟩

/-- The step after the one that makes an end due is that end (R191, R214). -/
theorem step_after_due (hr : s.resetLine = false) (h : step s = .next t) (hd : t.ending = some r) :
    step t = .next (endOp r t) := by
  obtain ⟨u, rfl, hm, hdelay, hreset⟩ := step_eq_endDue hr h hd
  exact step_endDue r hreset hm hdelay

theorem resetLine_of_due (hr : s.resetLine = false) (h : step s = .next t) (hd : t.ending = some r) :
    t.resetLine = false := by
  obtain ⟨u, rfl, -, -, hreset⟩ := step_eq_endDue hr h hd
  exact hreset

theorem steps_idle (hr : s.resetLine = false) (hidle : isIdle s = true) (hp : s.port = []) (n : Nat) :
    steps n s = .next s := by
  induction n with
  | zero => rfl
  | succ n ih => simp only [steps, step_empty hr hidle hp, ih]

/-! ### The only way back to `S_IDLE` -/

theorem AfterStatus.main_ne_idle (h : AfterStatus s t) (hm : s.main ≠ .idle) : t.main ≠ .idle := by
  cases h
  case waitDone | timeout | pace | noLatch | enabled | deviceBusy => exact hm
  case toCommand | toVerify | toErase | toProgram | toRead => simp

theorem goOf_main_ne_idle (hi : isEmitted i = true) (rx : List Byte) (hm : s.main ≠ .idle) :
    (goOf i rx s).main ≠ .idle := by
  cases i
  case rdsr => exact (statusRead_after rx s).main_ne_idle hm
  case rdid | rd => exact hm
  case rsten | rst | wren | se | pp => simp [goOf]
  all_goals cases hi

/-- An operation in flight comes back to idle with `r` exactly by the end with `r`, a step of its own (R191). -/
theorem step_to_idle_iff (hr : s.resetLine = false) (hm : s.main ≠ .idle) (h : step s = .next t) :
    t.main = .idle ∧ t.result = r ↔ s.ending = some r := by
  constructor
  · rintro ⟨ht, rfl⟩
    cases step_next h with
    | reset hr' _ => simp [hr] at hr'
    | quiet _ hidle | reserved _ _ _ hidle | start _ _ _ _ hidle => exact absurd (isIdle_iff.mp hidle).1 hm
    | command i _ _ _ hi he =>
      obtain ⟨-, ⟨-, rfl⟩ | ⟨-, rfl⟩ | ⟨-, -, rfl⟩ | ⟨-, rx, -, rfl⟩⟩ := exec_command_next hi he
      · exact absurd ht hm
      · exact absurd ht hm
      · exact absurd ht hm
      · exact absurd ht (goOf_main_ne_idle hi rx (s := deselReq s) hm)
    | ends r _ _ he hend => simpa [hend] using he
    | gap _ _ _ _ hgap => simp [hgap] at ht
    | settle _ _ _ _ hsettle => simp [hsettle] at ht
    | pace _ _ _ _ _ hpace => exact absurd (by simpa [hpace] using ht) hm
  · intro he
    rw [step_end hr (phaseOk_of_step hr h) he] at h
    cases h
    exact ⟨rfl, rfl⟩

/-- When an end comes to be due no transaction is open: its `Desel()` was just made, or the start made no request
(R214). -/
theorem Invariant.closed_when_due (hi : Invariant s) (hr : s.resetLine = false) (h : step s = .next t)
    (hd : t.ending = some r) :
    t.sel = false ∧
      ((s.xp = .desel ∧ t.trace = s.trace ++ [.desel]) ∨
        (s.main = .idle ∧ t.trace = s.trace ∧ s.cfg.pageSize < t.len.toNat ∧
          ((t.op = 4 ∧ r = .programmingFailed) ∨ (t.op = 5 ∧ r = .readFailed)))) := by
  cases step_comesDue hr h hd with
  | report i _ hx ht =>
    obtain ⟨htrace, hsel⟩ := report_keeps i s.answer (deselReq s)
    subst ht
    exact ⟨hsel, .inl ⟨hx, htrace⟩⟩
  | rejected a n q rest hreject hm hlong ht =>
    obtain ⟨-, -, hx, -⟩ := isIdle_iff.mp (isIdle_of_phaseOk hi.phase hm)
    subst ht
    obtain rfl := Option.some.inj hd
    refine ⟨hi.select.trans (by simp [hx]), .inr ⟨hm, rfl, of_decide_eq_true hlong, ?_⟩⟩
    cases hreject with
    | program => exact .inl ⟨rfl, rfl⟩
    | read => exact .inr ⟨rfl, rfl⟩

/-- Settles O41: `ComesDue` names the step that makes an end due, `step_after_due` the end after it, and an idle machine
with an empty port stays as it is. -/
theorem anEndedOperationMakesNoFurtherRequest : Obligations.AnEndedOperationMakesNoFurtherRequest := by
  refine ⟨fun s t r hi hu h hd => ?_, fun s t _ hu hm h ht => (step_to_idle_iff hu.1 hm h).mp ⟨ht, rfl⟩⟩
  obtain ⟨hsel, hclosed⟩ := hi.closed_when_due hu.1 h hd
  have hreset := resetLine_of_due hu.1 h hd
  exact ⟨hsel, hclosed, endOp r t, step_after_due hu.1 h hd, rfl, rfl, rfl, rfl, rfl, hsel, rfl, rfl, rfl, rfl, rfl,
    rfl, rfl, rfl, rfl, rfl, rfl, rfl, steps_idle hreset rfl rfl⟩

/-! ### Which status read makes which end due -/

/-- A poll's timeout is due exactly when it read busy with the limit reached (R144, R149). -/
theorem AfterStatus.timeout_iff (h : AfterStatus s t) (he : s.ending = none) :
    t.ending = some .timeout ↔
      s.main ≠ .weVerify ∧ s.main ≠ .rdCheck ∧ busy s.status = true ∧ s.tlim ≤ s.pollcnt := by
  cases h
  case timeout hverify hcheck hbusy hlimit => simp [hverify, hcheck, hbusy, hlimit]
  case pace _ _ _ hlimit => simp [he, hlimit]
  case toCommand hbusy | toVerify hbusy | waitDone hbusy => simp [he, hbusy]
  case noLatch hm _ | toErase hm _ _ | toProgram hm _ _ | enabled hm _ _ _ | deviceBusy hm _ | toRead hm _ =>
    simp [he, hm]

/-- The latch is found clear exactly in the verify step (R147). -/
theorem AfterStatus.writeEnableFailed_iff (h : AfterStatus s t) (he : s.ending = none) :
    t.ending = some .writeEnableFailed ↔ s.main = .weVerify ∧ wel s.cfg s.status = false := by
  cases h
  case noLatch hm hwel => simp [hm, hwel]
  case toErase _ hwel _ | toProgram _ hwel _ | enabled _ hwel _ _ => simp [he, hwel]
  case waitDone _ _ hm _ _ | timeout hm _ _ _ | pace hm _ _ _ => simp [he, hm]
  case toCommand hm _ | toVerify hm _ | deviceBusy hm _ | toRead hm _ => simp [he, hm]

/-- The results that only a status read comes to (R212, R215). -/
def IsStatusResult (r : Result) : Prop := r = .timeout ∨ r = .writeEnableFailed

theorem rdsr_of_report_due {rx : List Byte} (hr : IsStatusResult r) (hi : isEmitted i = true) (he : s.ending = none)
    (hd : (goOf i rx s).ending = some r) : i = .rdsr := by
  cases i
  case rdsr => rfl
  case rdid | rd =>
    obtain rfl := Option.some.inj hd
    simp [IsStatusResult] at hr
  case rsten | rst | wren | se | pp => simp [goOf, he] at hd
  all_goals cases hi

/-- A status read received two bytes (R87, R122). -/
theorem Invariant.status_answer {rx : List Byte} (hi : Invariant s) (hx : s.xp = .desel)
    (hc : phaseCommand s = some .rdsr) (ha : s.answer = some rx) : ∃ r0 st, rx = [r0, st] := by
  obtain ⟨i, hc', hlast⟩ := hi.recorded hx
  obtain rfl := Option.some.inj (hc.symm.trans hc')
  obtain ⟨-, hlength⟩ := hi.events _ (List.mem_of_getLast? hlast)
  exact List.length_eq_two.mp (hlength rx ha)

/-- The end with such a result is due exactly after a completed status read whose outcome it is. -/
theorem Invariant.due_iff_statusRead (hi : Invariant s) (hr : s.resetLine = false) (hs : IsStatusResult r)
    (h : step s = .next t) :
    t.ending = some r ↔ s.xp = .desel ∧ phaseCommand s = some .rdsr ∧
      ∃ r0 st, s.answer = some [r0, st] ∧ (statusRead [r0, st] (deselReq s)).ending = some r := by
  constructor
  · intro hd
    cases step_comesDue hr h hd with
    | report i hc hx ht =>
      subst ht
      cases ha : s.answer with
      | none =>
        rw [ha] at hd
        obtain rfl := Option.some.inj hd
        simp [IsStatusResult] at hs
      | some rx =>
        rw [ha] at hd
        obtain rfl := rdsr_of_report_due hs (phaseCommand_spec hi.phase hc).2.2.1 (s := deselReq s)
          (ending_of_phaseCommand hc) hd
        obtain ⟨r0, st, rfl⟩ := hi.status_answer hx hc ha
        exact ⟨hx, hc, r0, st, rfl, hd⟩
    | rejected a n q rest hreject _ _ ht =>
      subst ht
      obtain rfl := Option.some.inj hd
      cases hreject <;> simp [IsStatusResult] at hs
  · rintro ⟨hx, hc, r0, st, ha, hd⟩
    rw [step_report hr hc hx h, ha]
    exact hd

/-- The phases that read the status while a transaction is in progress (R192). -/
theorem phaseCommand_rdsr_iff (h : phaseOk s = true) (hx : s.xp ≠ .none) :
    phaseCommand s = some .rdsr ↔ isWait s.main = true ∨ s.main = .weVerify ∨ s.main = .rdCheck := by
  have he := ending_of_active h (.inl hx)
  cases hm : s.main
  case rstWait | weWait1 | weWait2 | erWait | ppWait =>
    have hp : s.poll = .read := by simpa [phaseOk, tripleOk, hm, hx, he, isDelay, isWait] using h
    simp [phaseCommand, he, hm, hp, isWait]
  all_goals simp [phaseCommand, he, hm, isWait]

/-- Where the step of a `Desel()` can only make the end with `r` due, the next two steps are the `Desel()` and that
end. -/
theorem Invariant.desel_then_end (hi : Invariant s) (hu : Undisturbed s) (hx : s.xp = .desel)
    (hdue : ∀ t, step s = .next t → t.ending = some r) :
    ∃ t u : State, step s = .next t ∧ t.ending = some r ∧ step t = .next u ∧ u.main = .idle ∧ u.done = true ∧
      u.result = r ∧ u.trace = s.trace ++ [.desel] := by
  obtain ⟨i, hstep⟩ := hi.step_desel hu hx
  have hd := hdue _ hstep
  exact ⟨_, _, hstep, hd, step_after_due hu.1 hstep hd, rfl, rfl, rfl, (report_keeps i s.answer (deselReq s)).1⟩

/-! ### `Timeout` (R212) -/

theorem Invariant.timeout_due_iff (hi : Invariant s) (hr : s.resetLine = false) (h : step s = .next t) :
    t.ending = some .timeout ↔ s.xp = .desel ∧ isWait s.main = true ∧
      ∃ r0 st, s.answer = some [r0, st] ∧ st.getLsbD 0 = true ∧ s.tlim ≤ s.pollcnt := by
  rw [hi.due_iff_statusRead hr (.inl rfl) h]
  refine and_congr_right fun hx => ?_
  have hactive : s.xp ≠ .none := by simp [hx]
  have he := ending_of_active hi.phase (.inl hactive)
  have outcome (r0 st : Byte) := (statusRead_after [r0, st] (deselReq s)).timeout_iff he
  have notWait : isWait s.main = true → s.main ≠ .weVerify ∧ s.main ≠ .rdCheck := by
    cases s.main <;> simp [isWait]
  rw [phaseCommand_rdsr_iff hi.phase hactive]
  constructor
  · rintro ⟨hm, r0, st, ha, hd⟩
    obtain ⟨hverify, hcheck, hbusy, hlimit⟩ := (outcome r0 st).mp hd
    exact ⟨hm.resolve_right (not_or.mpr ⟨hverify, hcheck⟩), r0, st, ha, hbusy, hlimit⟩
  · rintro ⟨hw, r0, st, ha, hbusy, hlimit⟩
    obtain ⟨hverify, hcheck⟩ := notWait hw
    exact ⟨.inl hw, r0, st, ha, (outcome r0 st).mpr ⟨hverify, hcheck, hbusy, hlimit⟩⟩

/-- The waits that can give up, with the operations that run them (R212). -/
theorem Invariant.wait_of_timeout (hi : Invariant s) (he : s.ending = some .timeout) :
    (s.op = 0 ∧ s.main = .rstWait) ∨
      ((s.op = 2 ∨ s.op = 3 ∨ s.op = 4) ∧ (s.main = .weWait1 ∨ s.main = .weWait2)) ∨
      (s.op = 3 ∧ s.main = .erWait) ∨ (s.op = 4 ∧ s.main = .ppWait) := by
  obtain ⟨hw, -⟩ := hi.due _ he
  have hop := hi.operation
  cases hm : s.main <;> simp_all [endsWith, isWait, phaseOf]

/-- Settles O43: `timeout_due_iff` names the status read, and the invariant the phase and operation of its wait. -/
theorem timeoutExactlyWhenAWaitGivesUp : Obligations.TimeoutExactlyWhenAWaitGivesUp := by
  refine ⟨fun s r0 st hi hu hx hw ha hbusy hlimit => ?_, fun s t hi hr h => hi.timeout_due_iff hr h,
    fun s t hi hr hm h => ⟨step_to_idle_iff hr hm h, hi.wait_of_timeout⟩⟩
  exact hi.desel_then_end hu hx fun t h => (hi.timeout_due_iff hu.1 h).mpr ⟨hx, hw, r0, st, ha, hbusy, hlimit⟩

/-! ### `WriteEnableFailed` (R215) -/

theorem Invariant.writeEnableFailed_due_iff (hi : Invariant s) (hr : s.resetLine = false) (h : step s = .next t) :
    t.ending = some .writeEnableFailed ↔ s.xp = .desel ∧ s.main = .weVerify ∧
      ∃ r0 st, s.answer = some [r0, st] ∧ st.getLsbD s.cfg.welBit = false := by
  rw [hi.due_iff_statusRead hr (.inr rfl) h]
  refine and_congr_right fun hx => ?_
  have hactive : s.xp ≠ .none := by simp [hx]
  have he := ending_of_active hi.phase (.inl hactive)
  have outcome (r0 st : Byte) := (statusRead_after [r0, st] (deselReq s)).writeEnableFailed_iff he
  rw [phaseCommand_rdsr_iff hi.phase hactive]
  constructor
  · rintro ⟨-, r0, st, ha, hd⟩
    obtain ⟨hm, hwel⟩ := (outcome r0 st).mp hd
    exact ⟨hm, r0, st, ha, hwel⟩
  · rintro ⟨hm, r0, st, ha, hwel⟩
    exact ⟨.inr (.inl hm), r0, st, ha, (outcome r0 st).mpr ⟨hm, hwel⟩⟩

namespace Procedure

/-- From `s` to `t` no mutating frame was sent (R62). -/
def NoMutation (s t : State) : Prop :=
  ∃ added, t.trace = s.trace ++ added ∧ ∀ tx rx, .xchg tx rx ∈ added → isMutating tx = false

theorem NoMutation.of_trace_eq (h : t.trace = s.trace) : NoMutation s t := ⟨[], by simp [h], by simp⟩

theorem NoMutation.trans {u : State} (h : NoMutation s t) (h' : NoMutation t u) : NoMutation s u := by
  obtain ⟨a, ht, ha⟩ := h
  obtain ⟨b, hu, hb⟩ := h'
  refine ⟨a ++ b, by simp [hu, ht], fun tx rx hmem => ?_⟩
  exact (List.mem_append.mp hmem).elim (ha tx rx) (hb tx rx)

theorem NoMutation.delayReq (n : Nat) (s : State) : NoMutation s (delayReq n s) := ⟨[.delay n], rfl, by simp⟩

theorem NoMutation.xact {tx : List Byte} (h : isMutating tx = false) (s : State) : NoMutation s (xact tx s).2 :=
  ⟨[.sel, .xchg tx _, .desel], by simp [Procedure.xact]; rfl, by simp [h]⟩

theorem NoMutation.readStatus (s : State) : NoMutation s (readStatus s).2 := by
  have hx := NoMutation.xact (tx := frameStatus s.cfg) rfl s
  unfold Procedure.readStatus
  generalize Procedure.xact (frameStatus s.cfg) s = p at hx ⊢
  obtain ⟨_ | rx, t⟩ := p
  · exact hx
  · exact hx.trans (.of_trace_eq rfl)

theorem NoMutation.pollLoop (polls : Nat) (s : State) : NoMutation s (pollLoop polls s).2 := by
  induction polls generalizing s with
  | zero => exact .of_trace_eq rfl
  | succ polls ih =>
    have hr := NoMutation.readStatus s
    unfold Procedure.pollLoop
    generalize Procedure.readStatus s = p at hr ⊢
    obtain ⟨_ | st, t⟩ := p
    · exact hr
    · dsimp only
      split
      · exact hr
      · split
        · exact hr
        · refine .trans ?_ (ih _)
          exact (hr.trans (.delayReq _ t)).trans (.of_trace_eq rfl)

theorem NoMutation.waitReady (l : Millis) (s : State) : NoMutation s (waitReady l s).2 :=
  (NoMutation.of_trace_eq rfl).trans (.pollLoop _ _)

theorem NoMutation.verifyLatch (s : State) : NoMutation s (verifyLatch s).2 := by
  have hr := NoMutation.readStatus s
  unfold Procedure.verifyLatch
  generalize Procedure.readStatus s = p at hr ⊢
  obtain ⟨_ | st, t⟩ := p
  · exact hr
  · dsimp only
    split <;> exact hr

/-- The handshake sends status reads and write-enable only (R147). -/
theorem NoMutation.writeEnable (s : State) : NoMutation s (writeEnable s).2 := by
  have first := NoMutation.waitReady s.cfg.toWe s
  unfold Procedure.writeEnable
  split
  · rename_i t ht
    rw [ht] at first
    have command := first.trans (NoMutation.xact (tx := frameBare opWren) rfl t)
    split
    · rename_i u hu
      rwa [hu] at command
    · rename_i rx u hu
      rw [hu] at command
      have second := command.trans (NoMutation.waitReady u.cfg.toWe u)
      split
      · rename_i v hv
        rw [hv] at second
        exact second.trans (.verifyLatch v)
      · rename_i r v _ hv
        rwa [hv] at second
  · rename_i r t _ ht
    rwa [ht] at first

theorem pollLoop_ne_writeEnableFailed (polls : Nat) (s : State) : (pollLoop polls s).1 ≠ .writeEnableFailed := by
  induction polls generalizing s with
  | zero => exact nofun
  | succ polls ih =>
    unfold pollLoop
    rcases readStatus s with ⟨_ | st, t⟩
    · exact nofun
    · dsimp only
      split
      · exact nofun
      · split
        · exact nofun
        · exact ih _

theorem mutate_ne_writeEnableFailed (tx : List Byte) (l : Millis) (s : State) :
    (mutate tx l s).1 ≠ .writeEnableFailed := by
  unfold mutate
  rcases xact tx s with ⟨_ | rx, t⟩
  · exact nofun
  · exact pollLoop_ne_writeEnableFailed _ _

/-- The handshake, and what follows it only when it succeeded (R167, R169). -/
def gated (next : State → Result × State) (s : State) : Result × State :=
  match writeEnable s with
  | (.success, t) => next t
  | (r, t) => (r, t)

theorem sectorErase_eq_gated (s : State) :
    sectorErase s = gated (fun t => mutate (frameErase t.addr) t.cfg.toErase t) s := rfl

theorem pageProgram_eq_gated (h : tooLong s.cfg s.len = false) :
    pageProgram s = gated (fun t => mutate (frameProgram t.addr (payload t)) t.cfg.toProg t) s := by
  unfold pageProgram
  rw [h]
  rfl

theorem pageProgram_tooLong (h : tooLong s.cfg s.len = true) : pageProgram s = (.programmingFailed, s) := by
  simp [pageProgram, h]

/-- When the whole returns `WriteEnableFailed`, the handshake did, and nothing followed it. -/
theorem NoMutation.gated {next : State → Result × State} (hnext : ∀ t, (next t).1 ≠ .writeEnableFailed)
    (h : (gated next s).1 = .writeEnableFailed) : NoMutation s (gated next s).2 := by
  have hw := NoMutation.writeEnable s
  unfold Procedure.gated at h ⊢
  split at h
  · exact absurd h (hnext _)
  · rename_i r t _ ht
    rwa [ht] at hw

theorem NoMutation.sectorErase (h : (sectorErase s).1 = .writeEnableFailed) : NoMutation s (sectorErase s).2 := by
  rw [sectorErase_eq_gated] at h ⊢
  exact .gated (fun _ => mutate_ne_writeEnableFailed _ _ _) h

theorem NoMutation.pageProgram (h : (pageProgram s).1 = .writeEnableFailed) : NoMutation s (pageProgram s).2 := by
  cases hl : tooLong s.cfg s.len with
  | true => simp [pageProgram_tooLong hl] at h
  | false =>
    rw [pageProgram_eq_gated hl] at h ⊢
    exact .gated (fun _ => mutate_ne_writeEnableFailed _ _ _) h

theorem NoMutation.of_operation (hi : (∃ a, i = .sectorErase a) ∨ (∃ a n, i = .pageProgram a n))
    (h : operation i s = some t) (hr : t.result = .writeEnableFailed) : NoMutation s t := by
  obtain ⟨a, rfl⟩ | ⟨a, n, rfl⟩ := hi
  · obtain rfl := Option.some.inj h
    exact NoMutation.sectorErase hr
  · obtain rfl := Option.some.inj h
    exact NoMutation.pageProgram hr

end Procedure

/-- Settles O44: `writeEnableFailed_due_iff` names the status read, and `NoMutation` what the procedures
sent by then. -/
theorem writeEnableFailedExactlyWhenTheLatchIsClear :
    Obligations.WriteEnableFailedExactlyWhenTheLatchIsClear := by
  refine ⟨fun s r0 st hi hu hx hm ha hwel => ?_, fun s t hi hr h => hi.writeEnableFailed_due_iff hr h,
    fun s t hi hr hm h => step_to_idle_iff hr hm h, fun i s t hop h hr => ?_⟩
  · exact hi.desel_then_end hu hx fun t h => (hi.writeEnableFailed_due_iff hu.1 h).mpr ⟨hx, hm, r0, st, ha, hwel⟩
  · obtain ⟨added, htrace, hadded⟩ := Procedure.NoMutation.of_operation hop h hr
    exact ⟨added, htrace, fun tx rx hmem => by simpa [isMutating] using hadded tx rx hmem⟩

end Sys2Proof.Machine
end

section
/-! The rest of the encoding family (30_encoding.md): frames and host codes read back, frame lengths, the result codes
and the identification string. -/

namespace Sys2Proof

variable {c : Cfg} {i : Instr}

/-! ### Decoding what was encoded -/

theorem decodeErase_addrBytes (a : Addr) : decodeErase (addrBytes a) = .ok (.se a) := by
  simp only [addrBytes, decodeErase, joinAddr_extract]

theorem decodeProgram_addrBytes (a : Addr) (data : List Byte) :
    decodeProgram (addrBytes a ++ data) = .ok (.pp a data) := by
  simp only [addrBytes, List.cons_append, List.nil_append, decodeProgram, joinAddr_extract]

/-- The count of fillers is the count of `LEN_W` bits that was encoded (R86). -/
theorem decodeRead_addrBytes (a : Addr) (n : Len) (filler : Byte) :
    decodeRead (addrBytes a ++ List.replicate n.toNat filler) = .ok (.rd a n) := by
  simp only [addrBytes, List.cons_append, List.nil_append, decodeRead, joinAddr_extract, List.length_replicate,
    BitVec.ofNat_toNat, BitVec.setWidth_eq, n.isLt, if_true]

/-- Settles O4: the opcodes of R84 and the codes of R88 are distinct, and each format is read back as it was written. -/
theorem decodeOfEncodeIsTheInstruction : Obligations.DecodeOfEncodeIsTheInstruction := by
  intro c i
  cases i with
  | se a => exact decodeErase_addrBytes a
  | pp a data => exact decodeProgram_addrBytes a data
  | rd a n => exact decodeRead_addrBytes a n c.filler
  | rsten | rst | rdid | rdsr | wrsr | wren | wrdi | rstff => rfl
  | reset | readJedecID | writeEnable | sectorErase | pageProgram | read => rfl

/-! ### Encoding what was decoded -/

/-- The commands whose frame holds no filler (R81). -/
def FillerFree (i : Instr) : Prop :=
  i = .rsten ∨ i = .rst ∨ i = .wren ∨ (∃ a, i = .se a) ∨ ∃ a d, i = .pp a d

/-- If the answer is a command without filler, the frame `b :: rest` is that command's. -/
def ReadsFrame (c : Cfg) (b : Byte) (rest : List Byte) (answer : Except DecodeError Instr) : Prop :=
  ∀ i, answer = .ok i → FillerFree i → encode c i = .frame (b :: rest)

theorem readsFrame_error (b : Byte) (rest : List Byte) (e : DecodeError) : ReadsFrame c b rest (.error e) := nofun

theorem readsFrame_of_filler (b : Byte) (rest : List Byte) (h : ¬ FillerFree i) : ReadsFrame c b rest (.ok i) := by
  rintro j hj hfree
  cases hj
  exact absurd hfree h

theorem readsFrame_bare {b : Byte} (h : encode c i = .frame [b]) (rest : List Byte) :
    ReadsFrame c b rest (decodeBare b i rest) := by
  cases rest with
  | nil => rintro j hj -; cases hj; exact h
  | cons x xs => exact readsFrame_error _ _ _

theorem readsFrame_erase (rest : List Byte) : ReadsFrame c opSe rest (decodeErase rest) := by
  unfold decodeErase
  split
  · rintro j hj -
    cases hj
    simp [encode, frameErase, addrBytes_joinAddr]
  · exact readsFrame_error _ _ _

theorem readsFrame_program (rest : List Byte) : ReadsFrame c opPp rest (decodeProgram rest) := by
  unfold decodeProgram
  split
  · rintro j hj -
    cases hj
    simp [encode, frameProgram, addrBytes_joinAddr]
  · exact readsFrame_error _ _ _

theorem readsFrame_id (b : Byte) (rest : List Byte) : ReadsFrame c b rest (decodeId rest) := by
  unfold decodeId
  split
  · exact readsFrame_of_filler _ _ (by simp [FillerFree])
  · exact readsFrame_error _ _ _

theorem readsFrame_status (b : Byte) (rest : List Byte) : ReadsFrame c b rest (decodeStatus rest) := by
  unfold decodeStatus
  split
  · exact readsFrame_of_filler _ _ (by simp [FillerFree])
  · exact readsFrame_error _ _ _

theorem readsFrame_read (b : Byte) (rest : List Byte) : ReadsFrame c b rest (decodeRead rest) := by
  unfold decodeRead
  split
  · split
    · exact readsFrame_of_filler _ _ (by simp [FillerFree])
    · exact readsFrame_error _ _ _
  · exact readsFrame_error _ _ _

theorem readsFrame_ite {b op : Byte} {rest : List Byte} {x y : Except DecodeError Instr}
    (hx : b = op → ReadsFrame c b rest x) (hy : ReadsFrame c b rest y) :
    ReadsFrame c b rest (if b = op then x else y) := by
  split
  · exact hx ‹_›
  · exact hy

/-- Opcode by opcode of R84, in the decoder's order. -/
theorem readsFrame_opcode (b : Byte) (rest : List Byte) : ReadsFrame c b rest (decodeOpcode b rest) := by
  have neverEmitted {i : Instr} (h : ¬ FillerFree i) : ReadsFrame c b rest (.ok i) := readsFrame_of_filler b rest h
  unfold decodeOpcode
  refine readsFrame_ite (fun rsten => rsten ▸ readsFrame_bare rfl rest) ?_
  refine readsFrame_ite (fun rst => rst ▸ readsFrame_bare rfl rest) ?_
  refine readsFrame_ite (fun _ => readsFrame_id b rest) ?_
  refine readsFrame_ite (fun _ => readsFrame_status b rest) ?_
  refine readsFrame_ite (fun _ => neverEmitted (by simp [FillerFree])) ?_
  refine readsFrame_ite (fun wren => wren ▸ readsFrame_bare rfl rest) ?_
  refine readsFrame_ite (fun _ => neverEmitted (by simp [FillerFree])) ?_
  refine readsFrame_ite (fun se => se ▸ readsFrame_erase rest) ?_
  refine readsFrame_ite (fun pp => pp ▸ readsFrame_program rest) ?_
  refine readsFrame_ite (fun _ => readsFrame_read b rest) ?_
  exact readsFrame_ite (fun _ => neverEmitted (by simp [FillerFree])) (readsFrame_error b rest _)

/-- Settles O5: by the opcode of the frame's first byte. -/
theorem encodeOfDecodeIsTheFrame : Obligations.EncodeOfDecodeIsTheFrame := by
  intro c bytes i h hfree
  cases bytes with
  | nil => cases h
  | cons b rest => exact readsFrame_opcode b rest i h hfree

/-! ### Frame lengths -/

/-- R86, R122: a well-formed instruction's frame is within the bound. -/
theorem frameOf_length_le (h : i.wellFormed c = true) : (Machine.frameOf c i).length ≤ c.pageSize + 4 := by
  cases i
  case pp a data => simpa [Instr.wellFormed, Machine.frameOf] using h
  case rd a n => simpa [Instr.wellFormed, Machine.frameOf] using h
  all_goals simp [Machine.frameOf]

/-- The constraints of R7. -/
theorem Cfg.ok_iff : c.ok = true ↔ 1 ≤ c.pageSize ∧ c.pageSize ≤ 2 ^ 16 - 1 ∧ c.welBit ≤ 7 ∧ c.welBit ≠ 0 := by
  simp only [Cfg.ok, Bool.and_eq_true, decide_eq_true_eq, and_assoc]
  exact Iff.rfl

theorem Cfg.pageSize_le (h : c.ok = true) : c.pageSize ≤ 2 ^ 16 - 1 :=
  (Cfg.ok_iff.mp h).2.1

/-- Settles O3: the lengths are those of the formats, and the bound is `frameOf_length_le` with R7's on `PAGE_SIZE`. -/
theorem frameLengthFollowsTheOpcode : Obligations.FrameLengthFollowsTheOpcode := by
  intro c a data n
  refine ⟨rfl, rfl, rfl, rfl, rfl, rfl, by simp [Machine.frameOf]; omega,
    by simp [Machine.frameOf]; omega, fun i hok hwf => ?_⟩
  have hbound := frameOf_length_le hwf
  have hpage := c.pageSize_le hok
  exact ⟨hbound, by omega⟩

/-! ### Tables -/

/-- Settles O6: each frame is read by its opcode's format (R81, R84). -/
theorem decodedWordsFromTheTables : Obligations.DecodedWordsFromTheTables :=
  ⟨rfl, rfl, rfl, rfl, rfl, rfl, rfl, rfl⟩

/-- Settles O7: the decoder tests the code alone (R88, R89). -/
theorem hostCodesNameTheOperations : Obligations.HostCodesNameTheOperations :=
  fun _ _ => ⟨rfl, rfl, rfl, rfl, rfl, rfl, rfl, rfl⟩

namespace Machine

theorem Result.code_injective : Function.Injective Result.code := by
  intro r q h
  cases r <;> cases q <;> first | rfl | cases h

/-- The digit of a nibble is its entry in the list of digits, whatever stands for a missing entry. -/
theorem hexDigit_eq_getD (n : BitVec 4) (missing : Char) :
    hexDigit n =
      ['0', '1', '2', '3', '4', '5', '6', '7', '8', '9', 'A', 'B', 'C', 'D', 'E', 'F'].getD n.toNat missing := by
  have h : n.toNat < 16 := n.isLt
  rw [hexDigit, List.getD_eq_getElem _ _ h, List.getD_eq_getElem _ _ h]

theorem toNat_highNibble (b : Byte) : (b.extractLsb' 4 4).toNat = b.toNat / 16 := by
  have h := b.isLt
  rw [BitVec.extractLsb'_toNat, Nat.shiftRight_eq_div_pow]
  omega

theorem toNat_lowNibble (b : Byte) : (b.extractLsb' 0 4).toNat = b.toNat % 16 := by
  rw [BitVec.extractLsb'_toNat, Nat.shiftRight_zero]

/-- Settles O8: the codes are distinct, and `hex2` writes the quotient and the remainder by 16 (R95). -/
theorem resultCodesAndIdentificationString : Obligations.ResultCodesAndIdentificationString := by
  refine ⟨rfl, fun r q h => Result.code_injective h, fun b0 b1 b2 => ?_, by decide, by decide⟩
  simp only [idStr, hex2, hexDigit_eq_getD _ ' ', toNat_highNibble, toNat_lowNibble]
  rfl

end Machine

end Sys2Proof
end

section
/-! Starts, ends and the steps that run no command: what each is, as a whole state or as a frame (R175, R191,
R192, R240). -/

namespace Sys2Proof.Machine

variable {s t u : State} {i : Instr}

/-! ### The start of an operation, said once -/

/-- The code an operation latches (R88). -/
def opOf : Instr → BitVec 3
  | .readJedecID => hostReadJedecID
  | .writeEnable => hostWriteEnable
  | .sectorErase _ => hostSectorErase
  | .pageProgram _ _ => hostPageProgram
  | .read _ _ => hostRead
  | _ => hostReset

/-- The latched operands (R175): an operation without an operand keeps the register. -/
def latched : Instr → State → State
  | .sectorErase a, s => { s with op := hostSectorErase, done := false, addr := a }
  | .pageProgram a n, s => { s with op := hostPageProgram, done := false, addr := a, len := n }
  | .read a n, s => { s with op := hostRead, done := false, addr := a, len := n }
  | i, s => { s with op := opOf i, done := false }

/-- The first activity of an operation (R192, R216). -/
def firstOf : Instr → State → State
  | .readJedecID => enter .id
  | .writeEnable | .sectorErase _ => enter .weWait1
  | .pageProgram _ _ => lengthChecked .programmingFailed .weWait1
  | .read _ _ => lengthChecked .readFailed .rdCheck
  | _ => enter .rstEn

/-- An operation starts in the idle state, and is refused in any other (R175, D22). -/
theorem exec_operation (hi : isOperation i = true) (s : State) :
    exec i s = if isIdle s then .next (firstOf i (latched i s)) else .refused .startWhileBusy := by
  cases i
  case reset | readJedecID | writeEnable | sectorErase | pageProgram | read => rfl
  all_goals cases hi

theorem exec_operation_idle (hi : isOperation i = true) (h : isIdle s = true) :
    exec i s = .next (firstOf i (latched i s)) := by
  rw [exec_operation hi, if_pos h]

theorem exec_operation_busy (hi : isOperation i = true) (h : isIdle s = false) :
    exec i s = .refused .startWhileBusy := by
  rw [exec_operation hi, h]
  rfl

/-- Settles O13: `startOp` tests for idle before all else (D22). -/
theorem startWhileBusyIsRefused : Obligations.StartWhileBusyIsRefused :=
  fun _ _ hi h => exec_operation_busy hi h

/-- Everything a start can do. -/
theorem exec_operation_next (hi : isOperation i = true) (h : exec i s = .next t) :
    isIdle s = true ∧ t = firstOf i (latched i s) := by
  cases hs : isIdle s with
  | false => rw [exec_operation_busy hi hs] at h; cases h
  | true => rw [exec_operation_idle hi hs] at h; cases h; exact ⟨rfl, rfl⟩

/-- A first activity is entered, or rejected with the end due (R216). -/
inductive FirstActivity (s : State) : State → Prop where
  | enters (m : Main) : FirstActivity s (enter m s)
  | rejected (r : Result) (m : Main) : FirstActivity s (endDue r { s with main := m })

theorem lengthChecked_first (r : Result) (m : Main) (s : State) : FirstActivity s (lengthChecked r m s) := by
  unfold lengthChecked
  split
  · exact .rejected r m
  · exact .enters m

theorem firstOf_first (i : Instr) (s : State) : FirstActivity s (firstOf i s) := by
  unfold firstOf
  split
  · exact .enters _
  · exact .enters _
  · exact .enters _
  · exact lengthChecked_first _ _ s
  · exact lengthChecked_first _ _ s
  · exact .enters _

/-! ### Starts as whole states -/

/-- Settles O9: each first phase is entered at once. -/
theorem startsWithoutOperands : Obligations.StartsWithoutOperands :=
  fun _ h => ⟨exec_operation_idle rfl h, exec_operation_idle rfl h, exec_operation_idle rfl h⟩

/-- Settles O10: as `writeEnable`, with the address latched. -/
theorem sectorEraseStartsWithTheHandshake : Obligations.SectorEraseStartsWithTheHandshake :=
  fun _ _ h => exec_operation_idle rfl h

/-- A rejection in the idle state writes neither `POLL` nor `XP`, which are none already. -/
theorem endDue_of_quiet {r : Result} (hp : s.poll = .none) (hx : s.xp = .none) :
    endDue r s = { s with ending := some r } := by
  simp only [endDue, ← hp, ← hx]

/-- Settles O11: by the length check (R216). -/
theorem pageProgramStartsOrIsRejected : Obligations.PageProgramStartsOrIsRejected := by
  intro s a n h
  obtain ⟨-, hp, hx, -⟩ := isIdle_iff.mp h
  rw [exec_operation_idle rfl h, firstOf]
  refine ⟨fun hn => ?_, fun hn => ?_⟩
  · rw [lengthChecked_ok (tooLong_eq_false.mpr hn)]
    rfl
  · rw [lengthChecked_rejects (decide_eq_true hn)]
    exact congrArg _ (endDue_of_quiet hp hx)

/-- Settles O12: by the length check (R216). -/
theorem readStartsOrIsRejected : Obligations.ReadStartsOrIsRejected := by
  intro s a n h
  obtain ⟨-, hp, hx, -⟩ := isIdle_iff.mp h
  rw [exec_operation_idle rfl h, firstOf]
  refine ⟨fun hn => ?_, fun hn => ?_⟩
  · rw [lengthChecked_ok (tooLong_eq_false.mpr hn)]
    rfl
  · rw [lengthChecked_rejects (decide_eq_true hn)]
    exact congrArg _ (endDue_of_quiet hp hx)

/-! ### The frame of a start -/

/-- What a first activity and a latch leave alone: everything but `STATE`, the wait's registers, the operands and
`DONE`. -/
def outsideStart (s : State) : State :=
  { s with
    main := .idle, poll := .none, xp := .none, ending := none, tlim := 0, pollcnt := 0, op := 0, addr := 0, len := 0
    done := false }

@[simp] theorem outsideStart_enter (m : Main) (s : State) : outsideStart (enter m s) = outsideStart s := by
  unfold enter
  split <;> rfl

theorem FirstActivity.outsideStart_eq (h : FirstActivity s t) : outsideStart t = outsideStart s := by
  cases h with
  | enters m => exact outsideStart_enter m s
  | rejected r m => rfl

theorem outsideStart_latched (i : Instr) (s : State) : outsideStart (latched i s) = outsideStart s := by
  cases i <;> rfl

theorem exec_operation_outside (hi : isOperation i = true) (h : exec i s = .next t) :
    outsideStart t = outsideStart s := by
  obtain ⟨-, rfl⟩ := exec_operation_next hi h
  exact (firstOf_first i _).outsideStart_eq.trans (outsideStart_latched i s)

theorem FirstActivity.latch (h : FirstActivity s t) :
    t.op = s.op ∧ t.addr = s.addr ∧ t.len = s.len ∧ t.done = s.done := by
  cases h with
  | enters m => simp
  | rejected r m => simp

theorem enter_limits {m : Main} (h : isWait m = false) :
    (enter m s).tlim = s.tlim ∧ (enter m s).pollcnt = s.pollcnt := by
  cases m <;> first | exact ⟨rfl, rfl⟩ | cases h

theorem FirstActivity.limits (h : FirstActivity s t) (he : s.ending = none)
    (hw : isWait t.main = false ∨ t.ending ≠ none) : t.tlim = s.tlim ∧ t.pollcnt = s.pollcnt := by
  cases h with
  | enters m => exact enter_limits (by simpa [he] using hw)
  | rejected r m => exact ⟨rfl, rfl⟩

theorem latched_keeps (i : Instr) (s : State) :
    (latched i s).ending = s.ending ∧ (latched i s).tlim = s.tlim ∧ (latched i s).pollcnt = s.pollcnt ∧
      (latched i s).done = false := by
  cases i <;> exact ⟨rfl, rfl, rfl, rfl⟩

/-- Settles O14: `outsideStart` for the registers, and the latch and the wait of the first activity. -/
theorem startsLeaveTheRestAlone : Obligations.StartsLeaveTheRestAlone := by
  intro i s t hi h
  have frame {α : Type} (f : State → α) : f (outsideStart t) = f (outsideStart s) :=
    congrArg f (exec_operation_outside hi h)
  obtain ⟨hidle, ht⟩ := exec_operation_next hi h
  obtain ⟨-, -, -, hending⟩ := isIdle_iff.mp hidle
  obtain ⟨hlend, hltlim, hlcnt, hldone⟩ := latched_keeps i s
  have first : FirstActivity (latched i s) t := ht ▸ firstOf_first i (latched i s)
  obtain ⟨-, haddr, hlen, hdone⟩ := first.latch
  refine ⟨frame State.sel, frame State.idx, frame State.status, frame State.answer, frame State.result,
    frame State.id0, frame State.id1, frame State.id2, frame State.cfg, frame State.trace, frame State.transport,
    frame State.port, frame State.resetLine, frame State.linkHung, hdone.trans hldone, fun hop => haddr.trans ?addr,
    fun hprogram hread => hlen.trans ?len, fun hw => ?limits,
    fun a => ⟨frame fun x => Memory.read x.txd a, frame fun x => Memory.read x.rxd a⟩⟩
  case addr => obtain rfl | rfl | rfl := hop <;> rfl
  case len =>
    cases i with
    | pageProgram a n => exact absurd rfl (hprogram a n)
    | read a n => exact absurd rfl (hread a n)
    | _ => rfl
  case limits =>
    obtain ⟨htlim, hcnt⟩ := first.limits (hlend.trans hending) hw
    exact ⟨htlim.trans hltlim, hcnt.trans hlcnt⟩

/-! ### Steps that run no command -/

/-- Settles O28: the decoder's answer is what the idle step runs (R91). -/
theorem stepRunsTheHostsRequest : Obligations.StepRunsTheHostsRequest := by
  intro s r rest i hr hidle hp hd
  rw [step_request hr hidle hp, hd]
  rfl

/-- Settles O31: a reserved code is the decoder's error that starts nothing (R89). -/
theorem idleStepsThatStartNothing : Obligations.IdleStepsThatStartNothing := by
  refine fun s hr hidle => ⟨step_empty hr hidle, fun r rest op a n hp hc hop => ?_⟩
  rw [step_request hr hidle hp, hc]
  obtain rfl | rfl := hop <;> rfl

/-- Settles O32: block reset comes before all else (R242). -/
theorem blockResetFromAnyState : Obligations.BlockResetFromAnyState :=
  fun _ h => ⟨_, step_reset h, rfl, rfl, rfl, rfl, rfl, rfl, rfl, rfl, rfl, fun _ => rfl, fun _ => rfl⟩

/-- Settles O1: the fields of `State.reset` (R240). -/
theorem blockResetLeavesAnIdleSequencer : Obligations.BlockResetLeavesAnIdleSequencer :=
  ⟨rfl, rfl, rfl, rfl, rfl, rfl⟩

/-- Settles O56: an end that is due comes before the phase's activity (R191). -/
theorem theEndIsAStepOfItsOwn : Obligations.TheEndIsAStepOfItsOwn := fun _ _ hr hp he => step_end hr hp he

/-- Settles O30: each is a delay and the entry that follows it (R192, R194). -/
theorem stepDelaysAndGoesOn : Obligations.StepDelaysAndGoesOn := by
  rintro s ⟨hr, hh⟩ hp
  refine ⟨fun hm => ?_, fun hm => ?_, fun hw hd => ?_⟩
  · rw [step_gap hr hp hm, delayStep_runs hh]; rfl
  · rw [step_settle hr hp hm, delayStep_runs hh]; rfl
  · rw [step_pace hr hp hw hd, delayStep_runs hh]; rfl

/-- Settles O34: `Adds` lists no more than one event. -/
theorem stepMakesAtMostOneRequest : Obligations.StepMakesAtMostOneRequest := by
  intro s t h
  obtain ⟨added, ht, ha⟩ := step_adds h
  cases ha with
  | nothing => exact .inl (by simpa using ht)
  | blockReset | sel | xchg | desel | delay => exact .inr ⟨_, ht⟩

theorem delayStep_hung {n : Nat} {go : State → State} (h : s.linkHung = true) :
    delayStep n go s = .fault .transportNeverReturns := by
  simp [delayStep, h]

theorem exec_hung (h : inItsPhase i s) (hh : s.linkHung = true) : exec i s = .fault .transportNeverReturns := by
  rw [exec_eq_command (isEmitted_of_inItsPhase h)]
  exact command_hung (guardOf_iff.mpr h) hh

/-- Settles O33: a phase either emits a command or delays, and both are requests. -/
theorem hungTransportStopsEveryPhase : Obligations.HungTransportStopsEveryPhase := by
  intro s hr hh hp hm he
  rcases phase_split hp he hm with ⟨i, hc⟩ | hg | hg | ⟨hw, hd⟩
  · rw [step_command hr hp hc, exec_hung (phaseCommand_spec hp hc).1 hh]
  · rw [step_gap hr hp hg, delayStep_hung hh]
  · rw [step_settle hr hp hg, delayStep_hung hh]
  · rw [step_pace hr hp hw hd, delayStep_hung hh]

/-- A wire command is encoded as its frame. -/
theorem encode_emitted (h : isEmitted i = true) (c : Cfg) : encode c i = .frame (frameOf c i) := by
  cases i <;> first | rfl | cases h

/-- Settles O29: the frame is the command's encoding, which decodes to it. -/
theorem stepRunsThePhasesCommand : Obligations.StepRunsThePhasesCommand := by
  intro s i hr hp hc
  have hframe := encode_emitted (phaseCommand_spec hp hc).2.2.1 s.cfg
  exact ⟨step_command hr hp hc, hframe ▸ decodeOfEncodeIsTheInstruction s.cfg i, hframe⟩

end Sys2Proof.Machine
end

section
/-! The wire commands step by step: the whole next state of each of a transaction's three steps, and the frame of a
command on every path (R193, R192). -/

namespace Sys2Proof.Machine

variable {s t u : State} {i : Instr}

/-! ### `Sel()` and the exchange -/

/-- Settles O15: the first of a command's three requests (R193). -/
theorem commandsAssertSelectFirst : Obligations.CommandsAssertSelectFirst := fun _ _ hcan hx => exec_sel hcan hx

theorem idxAfter_lt (hist : List Event) {tx : List Byte} (h : 0 < tx.length) (rx : Option (List Byte)) :
    (idxAfter hist tx rx).toNat < tx.length := by
  cases rx with
  | none =>
    have hcut := Nat.mod_lt (Config.cutAt hist tx) h
    exact lt_of_le_of_lt (by simpa [idxAfter] using Nat.mod_le _ _) hcut
  | some rx =>
    have hlast : tx.length - 1 < tx.length := by omega
    exact lt_of_le_of_lt (by simpa [idxAfter] using Nat.mod_le _ _) hlast

theorem idxAfter_some (hist : List Event) {tx : List Byte} (h : tx.length < 2 ^ 17) (rx : List Byte) :
    (idxAfter hist tx (some rx)).toNat = tx.length - 1 := by
  rw [idxAfter, BitVec.toNat_ofNat, Nat.mod_eq_of_lt (by omega)]

/-- Settles O16: the second request, answered by the transport; the framer's index is `idxAfter` (log 7). -/
theorem commandsExchangeTheirFrame : Obligations.CommandsExchangeTheirFrame := by
  intro i s rx u hcan hx hex
  have hpos := frameOf_length_pos (isEmitted_of_inItsPhase hcan.1) s.cfg
  refine ⟨idxAfter s.trace (frameOf s.cfg i) rx, idxAfter_lt _ hpos rx, fun hsome hok => ?index, ?state⟩
  case index =>
    obtain ⟨r, rfl⟩ := Option.isSome_iff_exists.mp hsome
    have hpage := s.cfg.pageSize_le hok
    have hfits := hcan.2.2
    exact idxAfter_some _ (by omega) r
  case state =>
    rw [exec_xchg hcan hx, xchgReq, hex]
    rfl

/-! ### `Desel()` and the report -/

theorem exec_failed (hcan : CanRun i s) (hx : s.xp = .desel) (ha : s.answer = none) :
    exec i s = .next (endDue .transportError (deselReq s)) := by
  rw [exec_desel hcan hx, ha]
  rfl

/-- Settles O17: a failed exchange is reported as `TransportError` (R213). -/
theorem failedExchangeEndsWithTransportError : Obligations.FailedExchangeEndsWithTransportError :=
  fun _ _ hcan hx ha => exec_failed hcan hx ha

theorem exec_answered {rx : List Byte} (hcan : CanRun i s) (hx : s.xp = .desel) (ha : s.answer = some rx) :
    exec i s = .next (goOf i rx (deselReq s)) := by
  rw [exec_desel hcan hx, ha]
  rfl

/-- Settles O18: the phases entered are those of R192's table. -/
theorem commandsGoToTheNextPhase : Obligations.CommandsGoToTheNextPhase :=
  fun _ _ _ _ hx ha => ⟨fun hcan => exec_answered hcan hx ha, fun hcan => exec_answered hcan hx ha,
    fun hcan => exec_answered hcan hx ha, fun hcan => exec_answered hcan hx ha, fun hcan => exec_answered hcan hx ha⟩

/-- Settles O19: `identified` (R164). -/
theorem readIdLatchesTheThreeBytes : Obligations.ReadIdLatchesTheThreeBytes :=
  fun _ _ _ _ _ hcan hx ha => exec_answered hcan hx ha

/-- The data bytes are what follows the header's four (R87). -/
theorem rxData_header (x0 x1 x2 x3 : Byte) (data : List Byte) :
    rxData (x0 :: x1 :: x2 :: x3 :: data) data.length = data := by
  apply List.ext_getElem
  · simp [rxData]
  · intro k h₁ h₂
    simp [rxData, rxByte, Config.hdr, Nat.add_comm 4 k, h₂]

/-- Settles O20: the data bytes are written from index 0 on (R53, R172). -/
theorem readDataFillsTheReceiveBuffer : Obligations.ReadDataFillsTheReceiveBuffer := by
  intro s a n x0 x1 x2 x3 data hcan hx ha hlen hwf
  refine ⟨Memory.writeBytes s.rxd 0 data, ?state, fun k hk => ?inside, fun k hk => ?outside,
    Memory.writeBytes_wf hwf 0 data⟩
  case state =>
    have hdata : rxData (x0 :: x1 :: x2 :: x3 :: data) n.toNat = data := hlen ▸ rxData_header x0 x1 x2 x3 data
    rw [exec_answered hcan hx ha, goOf, dataRead, hdata]
    rfl
  case inside => simpa using Memory.read_writeBytes_inside hwf 0 data hk
  case outside => exact Memory.read_writeBytes_outside _ _ _ (.inr (by omega))

/-! ### The outcome of a status read is determined -/

theorem not_verify_of_isWait (h : isWait s.main = true) : s.main ≠ .weVerify ∧ s.main ≠ .rdCheck := by
  constructor <;> intro hm <;> simp [hm, isWait] at h

namespace AfterStatus

theorem eq_toCommand (h : AfterStatus s t) (hm : s.main = .weWait1) (hb : busy s.status = false) :
    t = enter .weCmd s := by
  cases h <;> simp_all

theorem eq_toVerify (h : AfterStatus s t) (hm : s.main = .weWait2) (hb : busy s.status = false) :
    t = enter .weVerify s := by
  cases h <;> simp_all

theorem eq_waitDone (h : AfterStatus s t) (hw : isWait s.main = true) (h₁ : s.main ≠ .weWait1)
    (h₂ : s.main ≠ .weWait2) (hb : busy s.status = false) : t = endDue .success s := by
  obtain ⟨hverify, hcheck⟩ := not_verify_of_isWait hw
  cases h <;> simp_all

theorem eq_timeout (h : AfterStatus s t) (hw : isWait s.main = true) (hb : busy s.status = true)
    (hl : s.tlim ≤ s.pollcnt) : t = endDue .timeout s := by
  obtain ⟨hverify, hcheck⟩ := not_verify_of_isWait hw
  cases h with
  | timeout => rfl
  | pace _ _ _ hl' => exact absurd hl' (BitVec.not_lt.mpr hl)
  | _ => simp_all

theorem eq_pace (h : AfterStatus s t) (hw : isWait s.main = true) (hb : busy s.status = true)
    (hl : s.pollcnt < s.tlim) : t = { s with poll := .delay, xp := .none } := by
  obtain ⟨hverify, hcheck⟩ := not_verify_of_isWait hw
  cases h with
  | pace => rfl
  | timeout _ _ _ hl' => exact absurd hl (BitVec.not_lt.mpr hl')
  | _ => simp_all

theorem eq_noLatch (h : AfterStatus s t) (hm : s.main = .weVerify) (hw : wel s.cfg s.status = false) :
    t = endDue .writeEnableFailed s := by
  cases h <;> simp_all

theorem eq_enabled (h : AfterStatus s t) (hm : s.main = .weVerify) (hw : wel s.cfg s.status = true) (hop : s.op = 2) :
    t = endDue .success s := by
  cases h <;> simp_all

theorem eq_toErase (h : AfterStatus s t) (hm : s.main = .weVerify) (hw : wel s.cfg s.status = true) (hop : s.op = 3) :
    t = enter .erCmd s := by
  cases h <;> simp_all

theorem eq_toProgram (h : AfterStatus s t) (hm : s.main = .weVerify) (hw : wel s.cfg s.status = true)
    (hop : s.op = 4) : t = enter .ppCmd s := by
  cases h <;> simp_all

theorem eq_deviceBusy (h : AfterStatus s t) (hm : s.main = .rdCheck) (hb : busy s.status = true) :
    t = endDue .busy s := by
  cases h <;> simp_all

theorem eq_toRead (h : AfterStatus s t) (hm : s.main = .rdCheck) (hb : busy s.status = false) :
    t = enter .rdCmd s := by
  cases h <;> simp_all

end AfterStatus

/-- The step of a status read's `Desel()`, whose outcome `AfterStatus` determines. -/
theorem exec_rdsr_of {r0 st : Byte} (hcan : CanRun .rdsr s) (hx : s.xp = .desel) (ha : s.answer = some [r0, st])
    (h : ∀ u, AfterStatus { deselReq s with status := st } u → u = t) : exec .rdsr s = .next t := by
  rw [exec_answered hcan hx ha]
  exact congrArg _ (h _ (statusRead_after [r0, st] (deselReq s)))

/-- Settles O21: the tests of R144 in their order, busy and then the limit. -/
theorem statusReadInAWait : Obligations.StatusReadInAWait := by
  intro s r0 st hcan hx ha hw
  have step {t : State} := exec_rdsr_of (t := t) hcan hx ha
  exact ⟨fun hb hm => step fun _ h => h.eq_toCommand hm hb, fun hb hm => step fun _ h => h.eq_toVerify hm hb,
    fun hb h₁ h₂ => step fun _ h => h.eq_waitDone hw h₁ h₂ hb, fun hb hl => step fun _ h => h.eq_timeout hw hb hl,
    fun hb hl => step fun _ h => h.eq_pace hw hb hl⟩

/-- Settles O22: the latch bit and then `OP` (R147, R195). -/
theorem statusReadInTheVerifyStep : Obligations.StatusReadInTheVerifyStep := by
  intro s r0 st hcan hx ha hm
  have step {t : State} := exec_rdsr_of (t := t) hcan hx ha
  exact ⟨fun hw => step fun _ h => h.eq_noLatch hm hw, fun hw hop => step fun _ h => h.eq_enabled hm hw hop,
    fun hw hop => step fun _ h => h.eq_toErase hm hw hop, fun hw hop => step fun _ h => h.eq_toProgram hm hw hop⟩

/-- Settles O23: the one busy check (R172). -/
theorem statusReadBeforeARead : Obligations.StatusReadBeforeARead := by
  intro s r0 st hcan hx ha hm
  have step {t : State} := exec_rdsr_of (t := t) hcan hx ha
  exact ⟨fun hb => step fun _ h => h.eq_deviceBusy hm hb, fun hb => step fun _ h => h.eq_toRead hm hb⟩

/-- Settles O25: a command tests its phase before all else (R3, R92). -/
theorem commandsOutOfPhaseAreRefused : Obligations.CommandsOutOfPhaseAreRefused := by
  intro i s hi hphase
  have hguard : guardOf i s = false := Bool.eq_false_iff.mpr fun h => hphase (guardOf_iff.mp h)
  rw [exec_eq_command hi, command_elsewhere hguard]

/-! ### Reserved status bits -/

/-- The state after another answer to the same status read. -/
def reanswered (answer : Option (List Byte)) (st : Byte) (s : State) : State := { s with answer := answer, status := st }

section
variable {answer : Option (List Byte)} {st : Byte}

theorem waitReported_reanswered (r : Result) (s : State) :
    waitReported r (reanswered answer st s) = reanswered answer st (waitReported r s) := by
  unfold waitReported
  split
  · have hm : (reanswered answer st s).main = s.main := rfl
    rw [hm]
    cases s.main <;> rfl
  · rfl

theorem polled_reanswered (h : busy st = busy s.status) :
    polled (reanswered answer st s) = reanswered answer st (polled s) := by
  have hb : busy (reanswered answer st s).status = busy s.status := h
  have he : expired (reanswered answer st s) = expired s := rfl
  simp only [polled, hb, he, waitReported_reanswered]
  split
  · rfl
  · split <;> rfl

theorem verified_reanswered (h : wel s.cfg st = wel s.cfg s.status) :
    verified (reanswered answer st s) = reanswered answer st (verified s) := by
  have hw : wel (reanswered answer st s).cfg (reanswered answer st s).status = wel s.cfg s.status := h
  have hop : (reanswered answer st s).op = s.op := rfl
  simp only [verified, hw, hop]
  split
  · rfl
  · split
    · rfl
    · split <;> rfl

theorem checked_reanswered (h : busy st = busy s.status) :
    checked (reanswered answer st s) = reanswered answer st (checked s) := by
  have hb : busy (reanswered answer st s).status = busy s.status := h
  simp only [checked, hb]
  split <;> rfl

theorem statusRead_verify (rx : List Byte) (h : s.main = .weVerify) :
    statusRead rx s = verified { s with status := rxStatus rx } := by
  unfold statusRead
  split <;> first | rfl | simp_all

theorem statusRead_check (rx : List Byte) (h : s.main = .rdCheck) :
    statusRead rx s = checked { s with status := rxStatus rx } := by
  unfold statusRead
  split <;> first | rfl | simp_all

theorem statusRead_poll (rx : List Byte) (h₁ : s.main ≠ .weVerify) (h₂ : s.main ≠ .rdCheck) :
    statusRead rx s = polled { s with status := rxStatus rx } := by
  unfold statusRead
  split <;> first | rfl | contradiction

/-- A status read tests the busy bit and the latch bit only (R143). -/
theorem statusRead_reanswered {r0 r0' st₀ : Byte} (hbusy : busy st = busy st₀) (hwel : wel s.cfg st = wel s.cfg st₀) :
    statusRead [r0', st] { s with answer := answer } = reanswered answer st (statusRead [r0, st₀] s) := by
  by_cases hverify : s.main = .weVerify
  · rw [statusRead_verify _ hverify, statusRead_verify (s := { s with answer := answer }) _ hverify]
    exact verified_reanswered (s := { s with status := st₀ }) hwel
  · by_cases hcheck : s.main = .rdCheck
    · rw [statusRead_check _ hcheck, statusRead_check (s := { s with answer := answer }) _ hcheck]
      exact checked_reanswered (s := { s with status := st₀ }) hbusy
    · rw [statusRead_poll _ hverify hcheck, statusRead_poll (s := { s with answer := answer }) _ hverify hcheck]
      exact polled_reanswered (s := { s with status := st₀ }) hbusy

end

/-- Settles O27: `statusRead_reanswered`, from the step of the `Desel()`. -/
theorem reservedStatusBitsAreIgnored : Obligations.ReservedStatusBitsAreIgnored := by
  intro s t r0 r0' st st' hcan hx hbusy hwel h
  rw [exec_answered (s := { s with answer := some [r0, st] }) hcan hx rfl] at h
  rw [exec_answered (s := { s with answer := some [r0', st'] }) hcan hx rfl]
  cases h
  exact congrArg _ (statusRead_reanswered (s := deselReq { s with answer := some [r0, st] }) hbusy.symm hwel.symm)

/-! ### The frame of a command -/

/-- What no command writes: all but `STATE`, `SEL`, `IDX`, the wait's registers, `STATUS`, `ID`, `RXD`, the recorded
answer and the link. -/
def outsideCommand (s : State) : State :=
  { s with
    main := .idle, poll := .none, xp := .none, ending := none, sel := false, idx := 0, tlim := 0, pollcnt := 0
    status := 0, id0 := 0, id1 := 0, id2 := 0, rxd := [], answer := none, trace := [], transport := .oracle [] }

@[simp] theorem outsideCommand_enter (m : Main) (s : State) : outsideCommand (enter m s) = outsideCommand s := by
  unfold enter
  split <;> rfl

theorem AfterStatus.outsideCommand_eq (h : AfterStatus s t) : outsideCommand t = outsideCommand s := by
  cases h <;> first | exact outsideCommand_enter _ s | rfl

theorem goOf_outside (i : Instr) (rx : List Byte) (s : State) : outsideCommand (goOf i rx s) = outsideCommand s := by
  cases i
  case rdsr => exact (statusRead_after rx s).outsideCommand_eq
  case rsten | rst | wren | se | pp => exact outsideCommand_enter _ s
  all_goals rfl

theorem AfterStatus.registers (h : AfterStatus s t) :
    t.status = s.status ∧ (t.id0, t.id1, t.id2) = (s.id0, s.id1, s.id2) ∧ t.rxd = s.rxd := by
  cases h <;> simp

theorem goOf_status (h : i ≠ .rdsr) (rx : List Byte) (s : State) : (goOf i rx s).status = s.status := by
  cases i
  case rdsr => exact absurd rfl h
  case rsten | rst | wren | se | pp => exact enter_status _ s
  all_goals rfl

theorem goOf_id (h : i ≠ .rdid) (rx : List Byte) (s : State) :
    ((goOf i rx s).id0, (goOf i rx s).id1, (goOf i rx s).id2) = (s.id0, s.id1, s.id2) := by
  cases i
  case rdid => exact absurd rfl h
  case rdsr => exact (statusRead_after rx s).registers.2.1
  case rsten | rst | wren | se | pp => simp [goOf]
  all_goals rfl

theorem goOf_rxd (h : ∀ a n, i ≠ .rd a n) (rx : List Byte) (s : State) : (goOf i rx s).rxd = s.rxd := by
  cases i
  case rd a n => exact absurd rfl (h a n)
  case rdsr => exact (statusRead_after rx s).registers.2.2
  case rsten | rst | wren | se | pp => exact enter_rxd _ s
  all_goals rfl

/-- A view of the state that no request and no end touches is kept by a command whose report keeps it. -/
theorem exec_command_keeps {α : Type} (f : State → α) (hi : isEmitted i = true) (h : exec i s = .next t)
    (hsel : f (selReq s) = f s) (hxchg : f (xchgReq (frameOf s.cfg i) s) = f s)
    (hend : f (endDue .transportError (deselReq s)) = f s) (hgo : ∀ rx, f (goOf i rx (deselReq s)) = f s) :
    f t = f s := by
  obtain ⟨-, ⟨-, rfl⟩ | ⟨-, rfl⟩ | ⟨-, -, rfl⟩ | ⟨-, rx, -, rfl⟩⟩ := exec_command_next hi h
  · exact hsel
  · exact hxchg
  · exact hend
  · exact hgo rx

theorem exec_command_outside (hi : isEmitted i = true) (h : exec i s = .next t) :
    outsideCommand t = outsideCommand s :=
  exec_command_keeps outsideCommand hi h rfl rfl rfl fun rx => goOf_outside i rx (deselReq s)

theorem exec_command_status (hi : isEmitted i = true) (h : exec i s = .next t) (hne : i ≠ .rdsr) :
    t.status = s.status :=
  exec_command_keeps State.status hi h rfl rfl rfl fun rx => goOf_status hne rx (deselReq s)

theorem exec_command_id (hi : isEmitted i = true) (h : exec i s = .next t) (hne : i ≠ .rdid) :
    (t.id0, t.id1, t.id2) = (s.id0, s.id1, s.id2) :=
  exec_command_keeps (fun x => (x.id0, x.id1, x.id2)) hi h rfl rfl rfl fun rx => goOf_id hne rx (deselReq s)

theorem exec_command_rxd (hi : isEmitted i = true) (h : exec i s = .next t) (hne : ∀ a n, i ≠ .rd a n) :
    t.rxd = s.rxd :=
  exec_command_keeps State.rxd hi h rfl rfl rfl fun rx => goOf_rxd hne rx (deselReq s)

theorem AfterStatus.limits (h : AfterStatus s t) : t.tlim = s.tlim ∧ t.pollcnt = s.pollcnt := by
  cases h <;> exact ⟨rfl, rfl⟩

/-- The wait's registers are written only on entry to a wait, from another phase (R194). -/
theorem goOf_limits {rx : List Byte} (hphase : inItsPhase i s)
    (hm : (goOf i rx s).main = s.main ∨ isWait (goOf i rx s).main = false) :
    ((goOf i rx s).tlim, (goOf i rx s).pollcnt) = (s.tlim, s.pollcnt) := by
  cases i
  case rdsr =>
    obtain ⟨htlim, hcnt⟩ := (statusRead_after rx s).limits
    exact Prod.ext htlim hcnt
  case wren | se | pp =>
    have hs := hphase.2.1
    rcases hm with hm | hm
    · simp [goOf, hs] at hm
    · simp [goOf, isWait] at hm
  all_goals rfl

theorem exec_command_limits (hi : isEmitted i = true) (h : exec i s = .next t)
    (hm : t.main = s.main ∨ isWait t.main = false) : t.tlim = s.tlim ∧ t.pollcnt = s.pollcnt := by
  obtain ⟨hcan, ⟨-, rfl⟩ | ⟨-, rfl⟩ | ⟨-, -, rfl⟩ | ⟨-, rx, -, rfl⟩⟩ := exec_command_next hi h
  · exact ⟨rfl, rfl⟩
  · exact ⟨rfl, rfl⟩
  · exact ⟨rfl, rfl⟩
  · exact Prod.mk.inj (goOf_limits (s := deselReq s) hcan.1 hm)

/-- `RD` writes below its own count only (R172). -/
theorem exec_rd_read_above {a : Addr} {n : Len} (h : exec (.rd a n) s = .next t) {k : Nat} (hk : n.toNat ≤ k) :
    Memory.read t.rxd k = Memory.read s.rxd k :=
  exec_command_keeps (fun x => Memory.read x.rxd k) rfl h rfl rfl rfl fun rx =>
    Memory.read_writeBytes_outside _ _ _ (.inr (by simpa [rxData] using hk))

/-- Settles O26: `outsideCommand` for the registers no command writes, and each other register's own writer. -/
theorem commandsLeaveTheRestAlone : Obligations.CommandsLeaveTheRestAlone := by
  intro i s t hi h
  have frame {α : Type} (f : State → α) : f (outsideCommand t) = f (outsideCommand s) :=
    congrArg f (exec_command_outside hi h)
  refine ⟨frame State.cfg, frame State.op, frame State.addr, frame State.len, frame State.port, frame State.resetLine,
    frame State.linkHung, frame State.result, frame State.done, exec_command_status hi h, fun hne => ?_,
    exec_command_limits hi h, fun a => frame fun x => Memory.read x.txd a,
    fun hne k => by rw [exec_command_rxd hi h hne], ?_⟩
  · simpa using exec_command_id hi h hne
  · rintro a n rfl k hk
    exact exec_rd_read_above h hk

/-- Settles O36: the three steps are `Xact` of the frame, and the report makes no request. -/
theorem threeStepsAreOneTransaction : Obligations.ThreeStepsAreOneTransaction := by
  intro s i hinv hu hx hc
  have hactive : Active i s := ⟨hu, hinv.phase, hc, hinv.frame_fits hc⟩
  obtain ⟨htrace, hsel⟩ := report_keeps i (Procedure.xact (frameOf s.cfg i) s).1 (Procedure.xact (frameOf s.cfg i) s).2
  refine ⟨_, _, hactive.steps_xact hx, rfl, fun r hr => Transport.exchange_length hr, ?_, hsel⟩
  rw [htrace]
  simp [Procedure.xact]

end Sys2Proof.Machine
end

section
/-! Who writes what (10_state.md sections 1 to 4). -/

namespace Sys2Proof.Machine

variable {s t u : State} {i : Instr} {r : Result}

/-! ### Who writes what -/

/-- The registers of the host's view. -/
def hostView (s : State) : Cfg × Memory × Memory × (Byte × Byte × Byte) × (BitVec 3 × Addr × Len) × Result × Bool :=
  (s.cfg, s.txd, s.rxd, (s.id0, s.id1, s.id2), (s.op, s.addr, s.len), s.result, s.done)

/-- `RXD` is written with the `Desel()` of `RD` alone (R172). -/
theorem exec_command_writes_rxd (hi : isEmitted i = true) (h : exec i s = .next t) (hne : t.rxd ≠ s.rxd) :
    s.main = .rdCmd ∧ t.ending = some .success := by
  cases i
  case rd a n =>
    obtain ⟨⟨⟨-, hm, -⟩, -⟩, ⟨-, rfl⟩ | ⟨-, rfl⟩ | ⟨-, -, rfl⟩ | ⟨-, rx, -, rfl⟩⟩ := exec_command_next hi h
    · exact absurd rfl hne
    · exact absurd rfl hne
    · exact absurd rfl hne
    · exact ⟨hm, rfl⟩
  all_goals exact absurd (exec_command_rxd hi h (by simp)) hne

/-- `ID` is written with the `Desel()` of `RDID` alone (R164). -/
theorem exec_command_writes_id (hi : isEmitted i = true) (h : exec i s = .next t)
    (hne : (t.id0, t.id1, t.id2) ≠ (s.id0, s.id1, s.id2)) : s.main = .id ∧ t.ending = some .success := by
  cases i
  case rdid =>
    obtain ⟨⟨⟨-, hm, -⟩, -⟩, ⟨-, rfl⟩ | ⟨-, rfl⟩ | ⟨-, -, rfl⟩ | ⟨-, rx, -, rfl⟩⟩ := exec_command_next hi h
    · exact absurd rfl hne
    · exact absurd rfl hne
    · exact absurd rfl hne
    · exact ⟨hm, rfl⟩
  all_goals exact absurd (exec_command_id hi h (by simp)) hne

/-- The writes that `OnlyTheseStepsWrite` allows outside block reset. -/
def WritesAllowed (s t : State) : Prop :=
  ((∃ a, Memory.read t.txd a ≠ Memory.read s.txd a) → isIdle s = true ∧ s.port.length = t.port.length + 1) ∧
  ((∃ a, Memory.read t.rxd a ≠ Memory.read s.rxd a) → s.main = .rdCmd ∧ t.ending = some .success) ∧
  ((t.id0, t.id1, t.id2) ≠ (s.id0, s.id1, s.id2) → s.main = .id ∧ t.ending = some .success) ∧
  ((t.op, t.addr, t.len) ≠ (s.op, s.addr, s.len) → isIdle s = true ∧ s.port.length = t.port.length + 1) ∧
  (t.result ≠ s.result → s.ending = some t.result) ∧
  (t.done = true → s.done = true ∨ s.ending = some t.result)

theorem writesAllowed_of_hostView (h : hostView t = hostView s) : WritesAllowed s t := by
  simp only [hostView, Prod.mk.injEq] at h
  obtain ⟨-, htxd, hrxd, ⟨h0, h1, h2⟩, ⟨hop, haddr, hlen⟩, hresult, hdone⟩ := h
  simp [WritesAllowed, *]
  exact .inl

theorem writesAllowed_start {q : Request} {rest : List Request} (hidle : isIdle s = true) (hp : s.port = q :: rest)
    (hi : isOperation i = true) (h : exec i (takeRequest q rest s) = .next t) : WritesAllowed s t := by
  have frame {α : Type} (f : State → α) : f (outsideStart t) = f (outsideStart (takeRequest q rest s)) :=
    congrArg f (exec_operation_outside hi h)
  obtain ⟨-, rfl⟩ := exec_operation_next hi h
  have taken : isIdle s = true ∧ s.port.length = (firstOf i (latched i (takeRequest q rest s))).port.length + 1 :=
    ⟨hidle, by rw [hp, show (firstOf i _).port = rest from frame State.port]; rfl⟩
  have hdone := (firstOf_first i (latched i (takeRequest q rest s))).latch.2.2.2
  rw [(latched_keeps i _).2.2.2] at hdone
  refine ⟨fun _ => taken, ?_, fun hne => absurd (frame fun x => (x.id0, x.id1, x.id2)) hne, fun _ => taken,
    fun hne => absurd (frame State.result) hne, fun hd => by simp [hdone] at hd⟩
  rintro ⟨a, hne⟩
  exact absurd (frame fun x => Memory.read x.rxd a) hne

theorem writesAllowed_command (hi : isEmitted i = true) (h : exec i s = .next t) : WritesAllowed s t := by
  have frame {α : Type} (f : State → α) : f (outsideCommand t) = f (outsideCommand s) :=
    congrArg f (exec_command_outside hi h)
  refine ⟨?_, ?_, exec_command_writes_id hi h, fun hne => absurd (frame fun x => (x.op, x.addr, x.len)) hne,
    fun hne => absurd (frame State.result) hne, fun hd => .inl ((frame State.done).symm.trans hd)⟩
  · rintro ⟨a, hne⟩
    exact absurd (frame fun x => Memory.read x.txd a) hne
  · rintro ⟨a, hne⟩
    exact exec_command_writes_rxd hi h fun heq => hne (by rw [heq])

theorem hostView_enter (m : Main) (s : State) : hostView (enter m s) = hostView s := by
  simp [hostView]

/-- Settles O35: starts, commands and ends by their frames; no other step touches the host's view. -/
theorem onlyTheseStepsWrite : Obligations.OnlyTheseStepsWrite := by
  intro s t h
  cases step_next h with
  | reset hr ht => exact ⟨by rw [ht]; rfl, by simp [hr]⟩
  | quiet _ _ _ ht => exact ⟨by rw [ht], fun _ => writesAllowed_of_hostView (by rw [ht])⟩
  | reserved _ _ _ _ _ ht => exact ⟨by rw [ht], fun _ => writesAllowed_of_hostView (by rw [ht]; rfl)⟩
  | start q rest i _ hidle hp _ hi he =>
    exact ⟨(congrArg State.cfg (exec_operation_outside hi he) :), fun _ => writesAllowed_start hidle hp hi he⟩
  | command i _ _ _ hi he =>
    exact ⟨(congrArg State.cfg (exec_command_outside hi he) :), fun _ => writesAllowed_command hi he⟩
  | ends r _ _ hend ht =>
    subst ht
    refine ⟨rfl, fun _ => ⟨by simp, by simp, by simp, by simp, fun _ => hend, fun _ => .inr hend⟩⟩
  | gap _ _ _ _ ht =>
    subst ht
    exact ⟨enter_cfg _ _, fun _ => writesAllowed_of_hostView (hostView_enter _ _)⟩
  | settle _ _ _ _ ht =>
    subst ht
    exact ⟨enter_cfg _ _, fun _ => writesAllowed_of_hostView (hostView_enter _ _)⟩
  | pace _ _ _ _ _ ht => exact ⟨by rw [ht]; rfl, fun _ => writesAllowed_of_hostView (by rw [ht]; rfl)⟩

end Sys2Proof.Machine
end

section
/-! The invariant is kept by every step (43_sequencer_fsm.md section 4). What holds between two requests of an operation
is said once (`Between`); entering a phase, pacing a wait and making an end due are its instances. -/

namespace Sys2Proof.Machine

variable {s t u : State} {i : Instr} {r : Result}

/-! ### The gate -/

theorem Gate.exchange_ne_broken {g : Gate} {tx : List Byte} {ok : Bool} (hg : g ≠ .broken)
    (hm : isMutating tx = true → ∃ n, 2 ≤ n ∧ g = .armed n) : g.exchange tx ok ≠ .broken := by
  cases g with
  | broken => exact absurd rfl hg
  | shut =>
    cases h : isMutating tx with
    | true => simpa using hm h
    | false => simp only [Gate.exchange, h, Bool.false_eq_true, if_false]; split_ifs <;> simp
  | armed n =>
    cases h : isMutating tx with
    | true =>
      obtain ⟨k, hk, hn⟩ := hm h
      cases hn
      simp [Gate.exchange, h, hk]
    | false => simp only [Gate.exchange, h, Bool.false_eq_true, if_false]; split_ifs <;> simp

/-- Nothing mends a broken gate, so the trace before was not broken either. -/
theorem Gate.ne_broken_of_next {g : Gate} {e : Event} (h : g.next e ≠ .broken) : g ≠ .broken := by
  rintro rfl
  cases e <;> simp [Gate.next, Gate.exchange] at h

/-- A completed write-enable frame arms the gate (R62). -/
theorem Gate.exchange_wren {g : Gate} (hg : g ≠ .broken) : g.exchange [0x06] true = .armed 0 := by
  cases g with
  | broken => exact absurd rfl hg
  | shut => rfl
  | armed n => rfl

theorem Gate.exchange_rdsr (n : Nat) (filler : Byte) : (Gate.armed n).exchange [0x05, filler] true = .armed (n + 1) :=
  rfl

theorem Gate.next_delay_ne_broken {g : Gate} (hg : g ≠ .broken) (n : Nat) : g.next (.delay n) ≠ .broken := by
  simp only [Gate.next]
  split
  · exact hg
  · simp

/-- Only in `X_DESEL` does the need depend on the last exchange. -/
theorem readsNeeded_of_ne_desel {m : Main} {x : Xp} {ok : Bool} (h : x ≠ .desel) :
    readsNeeded m x ok = readsNeeded m .sel false := by
  cases m <;> simp [readsNeeded, h]

theorem gateNeed_pending (h : s.ending = none) : gateNeed s = readsNeeded s.main s.xp s.answer.isSome := by
  simp [gateNeed, h]

/-! ### Between two requests -/

/-- An operation is in flight and no bracket is open: what later steps need of the past. -/
structure Between (s : State) : Prop where
  cfg : s.cfg.ok = true
  select : s.sel = false
  running : s.done = false
  bracket : bracketOf s.trace = some .closed
  gate : gateOf s.trace ≠ .broken
  events : ∀ e ∈ s.trace, eventLegal s.cfg e
  memory : s.txd.wf ∧ s.rxd.wf ∧ s.transport.array.wf

/-- `LEN <= PAGE_SIZE` where the operation has a length (R197(5)). -/
def LengthOk (s : State) : Prop := s.op = 4 ∨ s.op = 5 → s.len.toNat ≤ s.cfg.pageSize

/-- The gate has seen this phase's status reads, before the phase makes its own (R62). -/
def ReadsSeen (m : Main) (s : State) : Prop :=
  ∀ k, readsNeeded m .sel false = some k → ∃ n, k ≤ n ∧ gateOf s.trace = .armed n

theorem Between.invariant (h : Between s) (hphase : phaseOk s = true) (hx : s.xp = .none ∨ s.xp = .sel)
    (hm : s.main ≠ .idle) (hop : phaseOf s.op s.main)
    (hdue : ∀ r, s.ending = some r → endsWith s.main r ∧ canReturn s.op r)
    (hlimit : ∀ l, waitLimit s.cfg s.main = some l → s.poll ≠ .none →
      s.tlim = l ∧ s.pollcnt ≤ s.tlim ∧ (s.poll = .delay → s.pollcnt < s.tlim))
    (hlen : s.op = 4 ∨ s.op = 5 →
      s.len.toNat ≤ s.cfg.pageSize ∨ s.ending = some .programmingFailed ∨ s.ending = some .readFailed)
    (hlatch : s.main = .erCmd ∨ s.main = .ppCmd → wel s.cfg s.status = true)
    (hreads : s.ending = none → ReadsSeen s.main s) : Invariant s where
  cfg := h.cfg
  phase := hphase
  select := by rcases hx with hx | hx <;> simp [h.select, hx]
  running := fun _ => h.running
  fresh := fun hi => absurd hi hm
  operation := hop
  returned := fun hd => by simp [h.running] at hd
  due := hdue
  emptied := fun hi => absurd hi hm
  limit := hlimit
  length := fun _ => hlen
  latch := hlatch
  bracket := by rcases hx with hx | hx <;> simp [h.bracket, hx, bracketAt]
  gate := by
    refine ⟨h.gate, fun k hk => ?_⟩
    cases he : s.ending with
    | some r => simp [gateNeed, he] at hk
    | none =>
      have hne : s.xp ≠ .desel := by rcases hx with hx | hx <;> simp [hx]
      rw [gateNeed_pending he, readsNeeded_of_ne_desel hne] at hk
      exact hreads he k hk
  events := h.events
  recorded := fun hd => by rcases hx with hx | hx <;> simp [hx] at hd
  memory := h.memory

theorem Between.entered (h : Between s) (m : Main) : Between (enter m s) :=
  ⟨by simpa using h.cfg, by simpa using h.select, by simpa using h.running, by simpa using h.bracket,
    by simpa using h.gate, by simpa using h.events, by simpa using h.memory⟩

theorem phaseOk_enter {m : Main} (hm : m ≠ .idle) (he : s.ending = none) (hop : phaseOf s.op m) :
    phaseOk (enter m s) = true ∧ ((enter m s).xp = .none ∨ (enter m s).xp = .sel) := by
  have hending : (enter m s).ending = none := by simp [he]
  cases m
  case idle => exact absurd rfl hm
  case weVerify => exact
    ⟨by simpa [phaseOk, tripleOk, enter, waitLimit, isDelay, isWait, he] using usesHandshake_iff.mpr hop, .inr rfl⟩
  case rstGap | rstSettle => exact ⟨by simp [phaseOk, tripleOk, enter, waitLimit, isDelay, he], .inl rfl⟩
  all_goals exact ⟨by simp [phaseOk, tripleOk, enter, waitLimit, isDelay, isWait, he], .inr rfl⟩

/-- Going to a phase (R192 to R194). -/
theorem Between.enter {m : Main} (h : Between s) (hm : m ≠ .idle) (he : s.ending = none) (hop : phaseOf s.op m)
    (hlen : LengthOk s) (hlatch : m = .erCmd ∨ m = .ppCmd → wel s.cfg s.status = true) (hreads : ReadsSeen m s) :
    Invariant (enter m s) := by
  obtain ⟨hphase, hx⟩ := phaseOk_enter hm he hop
  refine (h.entered m).invariant hphase hx (by simpa using hm) (by simpa using hop) (by simp [he]) ?limit
    (fun ho => .inl (by simpa using hlen (by simpa using ho))) (by simpa using hlatch)
    fun _ k => by simpa using hreads k
  case limit =>
    intro l hl _
    simp only [enter_cfg, enter_main] at hl
    rw [enter_wait hl]
    exact ⟨rfl, Nat.zero_le _, nofun⟩

/-- An end comes to be due (R192). -/
theorem Between.endDue (h : Between s) (hm : s.main ≠ .idle) (hd : isDelay s.main = false) (hop : phaseOf s.op s.main)
    (hends : endsWith s.main r) (hret : canReturn s.op r)
    (hlen : LengthOk s ∨ r = .programmingFailed ∨ r = .readFailed)
    (hlatch : s.main = .erCmd ∨ s.main = .ppCmd → wel s.cfg s.status = true) : Invariant (endDue r s) := by
  have hb : Between (Machine.endDue r s) := ⟨h.cfg, h.select, h.running, h.bracket, h.gate, h.events, h.memory⟩
  refine hb.invariant (by simp [phaseOk, tripleOk, hm, hd]) (.inl rfl) hm hop ?due (fun _ _ hp => absurd rfl hp) ?length
    hlatch nofun
  case due => rintro r' ⟨⟩; exact ⟨hends, hret⟩
  case length =>
    intro ho
    rcases hlen with hlen | rfl | rfl
    · exact .inl (hlen ho)
    · exact .inr (.inl rfl)
    · exact .inr (.inr rfl)

/-- The two places of a wait outside its transactions (R194). -/
theorem Between.polling (h : Between s) (hw : isWait s.main = true) (he : s.ending = none)
    (hp : (s.poll = .read ∧ s.xp = .sel) ∨ (s.poll = .delay ∧ s.xp = .none ∧ s.pollcnt < s.tlim))
    (hop : phaseOf s.op s.main) (hlen : LengthOk s) (hl : waitLimit s.cfg s.main = some s.tlim)
    (hle : s.pollcnt ≤ s.tlim) (hreads : ReadsSeen s.main s) : Invariant s := by
  refine h.invariant ?phase ?xp ?idle hop (by simp [he]) ?limit (fun ho => .inl (hlen ho)) ?latch fun _ => hreads
  case phase =>
    cases hm : s.main <;> simp [hm, isWait] at hw <;>
      rcases hp with ⟨hp, hx⟩ | ⟨hp, hx, -⟩ <;> simp [phaseOk, tripleOk, hm, isDelay, isWait, hp, hx, he]
  case xp => rcases hp with ⟨-, hx⟩ | ⟨-, hx, -⟩ <;> simp [hx]
  case idle => intro hm; simp [hm, isWait] at hw
  case limit =>
    intro l hl' _
    refine ⟨Option.some.inj (hl.symm.trans hl'), hle, fun hd => ?_⟩
    rcases hp with ⟨hp, -⟩ | ⟨-, -, hlt⟩
    · simp [hp] at hd
    · exact hlt
  case latch => rintro (hm | hm) <;> simp [hm, isWait] at hw

/-! ### What the invariant says between two requests -/

theorem Invariant.no_delay_of_command (hi : Invariant s) (hx : s.xp ≠ .none) : isDelay s.main = false :=
  not_isDelay_of_active hi.phase hx

/-- A wait whose end is not due polls or paces (R190). -/
theorem poll_of_isWait (h : phaseOk s = true) (hw : isWait s.main = true) (he : s.ending = none) : s.poll ≠ .none := by
  intro hp
  cases hm : s.main <;> simp_all [phaseOk, tripleOk, isDelay, isWait]

theorem Invariant.lengthOk (hi : Invariant s) (he : s.ending = none) (hm : s.main ≠ .idle) : LengthOk s := by
  intro ho
  simpa [he] using hi.length hm ho

/-- After the `Desel()` (R126). -/
theorem Invariant.between_deselReq (hi : Invariant s) (hx : s.xp = .desel) (hm : s.main ≠ .idle) :
    Between (deselReq s) where
  cfg := hi.cfg
  select := rfl
  running := hi.running hm
  bracket := by simp [hi.bracket, hx, bracketAt, Bracket.next]
  gate := by simpa [Gate.next] using hi.gate.1
  events := by simpa [or_imp, forall_and, eventLegal] using hi.events
  memory := hi.memory

/-- After a `Delay(n)` (R123). -/
theorem Invariant.between_delayReq {n : Nat} (hi : Invariant s) (hd : DelayPhase n s) : Between (delayReq n s) := by
  have hx := xp_of_delayPhase hi.phase hd
  have hm : s.main ≠ .idle := by
    rcases hd with ⟨-, hm | ⟨hw, -⟩⟩ | ⟨-, hm⟩
    · simp [hm]
    · intro hm; simp [hm, isWait] at hw
    · simp [hm]
  have hn : n = 1 ∨ n = 2 := hd.imp And.left And.left
  exact
    { cfg := hi.cfg
      select := by simp [hi.select, hx]
      running := hi.running hm
      bracket := by simp [hi.bracket, hx, bracketAt, Bracket.next]
      gate := by simpa using Gate.next_delay_ne_broken hi.gate.1 n
      events := by simpa [or_imp, forall_and, eventLegal, hn] using hi.events
      memory := hi.memory }

/-- After the latch of a start (R175). -/
theorem Invariant.between_latched {q : Request} {rest : List Request} (hi : Invariant s) (hidle : isIdle s = true)
    (i : Instr) : Between (latched i (takeRequest q rest s)) := by
  obtain ⟨-, -, hx, -⟩ := isIdle_iff.mp hidle
  have hs : s.sel = false := by simp [hi.select, hx]
  have hb : bracketOf s.trace = some .closed := by simp [hi.bracket, hx, bracketAt]
  have hmem : (Memory.ofBytes q.txd).wf ∧ s.rxd.wf ∧ s.transport.array.wf := ⟨Memory.ofBytes_wf _, hi.memory.2⟩
  cases i <;> exact ⟨hi.cfg, hs, rfl, hb, hi.gate.1, hi.events, hmem⟩

/-! ### The report of a transaction -/

theorem ReadsSeen.of_none {m : Main} (h : readsNeeded m .sel false = none) : ReadsSeen m s := by
  intro k hk
  simp [h] at hk

/-- Of the waits only the second of the handshake has a need (R62). -/
theorem ReadsSeen.of_wait {m : Main} (hw : isWait m = true) (h : m = .weWait2 → ∃ n, gateOf s.trace = .armed n) :
    ReadsSeen m s := by
  cases m
  case weWait2 =>
    rintro k ⟨⟩
    obtain ⟨n, hn⟩ := h rfl
    exact ⟨n, Nat.zero_le n, hn⟩
  case rstWait | weWait1 | erWait | ppWait => exact .of_none rfl
  all_goals cases hw

theorem canReturn_of_phase {op : BitVec 3} {m : Main} (h : phaseOf op m) (hm : m ≠ .idle) : op.toNat ≤ 5 := by
  cases m <;> simp only [phaseOf] at h
  case idle => exact absurd rfl hm
  case weWait1 | weCmd | weWait2 | weVerify => rcases h with rfl | rfl | rfl <;> decide
  all_goals subst h; decide

/-- What a completed status read leads to keeps the invariant; `reads` is what the gate had seen with this read. -/
theorem AfterStatus.invariant (h : AfterStatus s t) (hb : Between s) (he : s.ending = none) (hd : isDelay s.main = false)
    (hphase : isWait s.main = true ∨ s.main = .weVerify ∨ s.main = .rdCheck) (hop : phaseOf s.op s.main)
    (hlen : LengthOk s) (hl : ∀ l, waitLimit s.cfg s.main = some l → s.tlim = l ∧ s.pollcnt ≤ s.tlim)
    (hreads : ∀ k, readsNeeded s.main .desel true = some k → ∃ n, k ≤ n ∧ gateOf s.trace = .armed n) :
    Invariant t := by
  have hm : s.main ≠ .idle := by
    rintro hm
    simp [hm, isWait] at hphase
  have hcmd : ¬ (s.main = .erCmd ∨ s.main = .ppCmd) := by
    rintro (hm | hm) <;> simp [hm, isWait] at hphase
  have hret := canReturn_of_phase hop hm
  have ending {r : Result} (hends : endsWith s.main r) (hr : canReturn s.op r) : Invariant (Machine.endDue r s) :=
    hb.endDue hm hd hop hends hr (.inl hlen) fun h => absurd h hcmd
  cases h
  case toCommand hm _ =>
    exact hb.enter nofun he (by simpa [hm, phaseOf] using hop) hlen (by simp) (.of_none rfl)
  case toVerify hm _ =>
    refine hb.enter nofun he (by simpa [hm, phaseOf] using hop) hlen (by simp) ?_
    rintro k ⟨⟩
    exact hreads 1 (by simp [hm, readsNeeded])
  case waitDone h₁ h₂ h₃ h₄ _ =>
    refine ending ?_ hret
    have hw : isWait s.main = true := by simpa [h₃, h₄] using hphase
    cases hmain : s.main <;> simp_all [endsWith, isWait]
  case timeout h₃ h₄ _ _ =>
    have hw : isWait s.main = true := by simpa [h₃, h₄] using hphase
    refine ending hw ?_
    cases hmain : s.main <;> simp_all [canReturn, isWait, phaseOf]
  case pace h₃ h₄ _ hlt =>
    have hw : isWait s.main = true := by simpa [h₃, h₄] using hphase
    obtain ⟨l, hwl⟩ := (isWait_iff (c := s.cfg)).mp hw
    obtain ⟨rfl, hle⟩ := hl l hwl
    refine Between.polling ⟨hb.cfg, hb.select, hb.running, hb.bracket, hb.gate, hb.events, hb.memory⟩ hw he
      (.inr ⟨rfl, rfl, hlt⟩) hop hlen hwl hle ?_
    refine .of_wait hw fun hm => ?_
    have hm : s.main = .weWait2 := hm
    obtain ⟨n, -, hn⟩ := hreads 1 (by simp [hm, readsNeeded])
    exact ⟨n, hn⟩
  case noLatch hm _ => exact ending hm (by simpa [hm, phaseOf, canReturn] using hop)
  case toErase hm hw ho =>
    refine hb.enter nofun he ho hlen (fun _ => hw) ?_
    rintro k ⟨⟩
    exact hreads 2 (by simp [hm, readsNeeded])
  case toProgram hm hw ho =>
    refine hb.enter nofun he ho hlen (fun _ => hw) ?_
    rintro k ⟨⟩
    exact hreads 2 (by simp [hm, readsNeeded])
  case enabled hm _ _ _ => exact ending (.inr (.inr (.inl hm))) hret
  case deviceBusy hm _ => exact ending hm (by simpa [hm, phaseOf, canReturn] using hop)
  case toRead hm _ =>
    exact hb.enter nofun he (by simpa [hm, phaseOf] using hop) hlen (by simp) (.of_none rfl)

/-- A write-enable frame that has just completed has armed the gate. -/
theorem Invariant.armed_of_wren {rx : List Byte} (hi : Invariant s) (hx : s.xp = .desel)
    (hc : phaseCommand s = some .wren) (ha : s.answer = some rx) : gateOf s.trace = .armed 0 := by
  obtain ⟨i, hc', hlast⟩ := hi.recorded hx
  obtain rfl := Option.some.inj (hc.symm.trans hc')
  obtain ⟨pre, htrace⟩ := List.getLast?_eq_some_iff.mp hlast
  have hgate := hi.gate.1
  rw [htrace, gateOf_append] at hgate ⊢
  rw [ha]
  exact Gate.exchange_wren (Gate.ne_broken_of_next hgate)

/-- The step of a `Desel()` keeps the invariant (R192, R213). -/
theorem Invariant.report (hi : Invariant s) (hc : phaseCommand s = some i) (hx : s.xp = .desel) :
    Invariant (orTransportError (goOf i) s.answer (deselReq s)) := by
  obtain ⟨⟨he, hphase⟩, hne, hemit, hm⟩ := phaseCommand_spec hi.phase hc
  have hb := hi.between_deselReq hx hm
  have hd := hi.no_delay_of_command hne
  have hlen : LengthOk (deselReq s) := hi.lengthOk he hm
  have hop : phaseOf (deselReq s).op s.main := hi.operation
  have hret := canReturn_of_phase hi.operation hm
  cases ha : s.answer with
  | none => exact hb.endDue hm hd hop hm hret (.inl hlen) hi.latch
  | some rx =>
    simp only [orTransportError_some]
    cases i
    case rsten =>
      obtain ⟨hmain, -⟩ := hphase
      rw [hmain] at hop
      exact hb.enter (m := .rstGap) nofun he hop hlen (by simp) (.of_none rfl)
    case rst =>
      obtain ⟨hmain, -⟩ := hphase
      rw [hmain] at hop
      exact hb.enter (m := .rstSettle) nofun he hop hlen (by simp) (.of_none rfl)
    case rdid =>
      obtain ⟨hmain, -⟩ := hphase
      exact Between.endDue ⟨hb.cfg, hb.select, hb.running, hb.bracket, hb.gate, hb.events, hb.memory⟩ hm hd hop
        (.inr (.inl hmain)) hret (.inl hlen) hi.latch
    case wren =>
      obtain ⟨hmain, -⟩ := hphase
      rw [hmain] at hop
      refine hb.enter (m := .weWait2) nofun he hop hlen (by simp) ?_
      rintro k ⟨⟩
      exact ⟨0, le_rfl, by simpa [Gate.next] using hi.armed_of_wren hx hc ha⟩
    case se =>
      obtain ⟨hmain, -⟩ := hphase
      rw [hmain] at hop
      exact hb.enter (m := .erWait) nofun he hop hlen (by simp) (.of_none rfl)
    case pp =>
      obtain ⟨hmain, -⟩ := hphase
      rw [hmain] at hop
      exact hb.enter (m := .ppWait) nofun he hop hlen (by simp) (.of_none rfl)
    case rd a n =>
      obtain ⟨hmain, -⟩ := hphase
      obtain ⟨htxd, hrxd, harray⟩ := hb.memory
      exact Between.endDue
        ⟨hb.cfg, hb.select, hb.running, hb.bracket, hb.gate, hb.events, htxd, Memory.writeBytes_wf hrxd _ _, harray⟩
        hm hd hop (.inr (.inr (.inr (.inr (.inr hmain))))) hret (.inl hlen) hi.latch
    case rdsr =>
      refine (statusRead_after rx (deselReq s)).invariant
        ⟨hb.cfg, hb.select, hb.running, hb.bracket, hb.gate, hb.events, hb.memory⟩ he hd
        ((phaseCommand_rdsr_iff hi.phase hne).mp hc) hop hlen ?limit ?reads
      case limit =>
        intro l hl
        have hw : isWait s.main = true := (isWait_iff (c := s.cfg)).mpr ⟨l, hl⟩
        obtain ⟨hlim, hle, -⟩ := hi.limit l hl (poll_of_isWait hi.phase hw he)
        exact ⟨hlim, hle⟩
      case reads =>
        intro k hk
        have hneed : gateNeed s = some k := by rw [gateNeed_pending he, hx, ha]; exact hk
        simpa [Gate.next] using hi.gate.2 k hneed
    all_goals cases hemit

end Sys2Proof.Machine
end

section
/-! Every step keeps the invariant (43_sequencer_fsm.md section 4), and the state after reset meets it. -/

namespace Sys2Proof.Machine

variable {s t u : State} {i : Instr} {r : Result}

/-! ### The other steps -/

/-- The port is the host's and no part of the invariant. -/
theorem Invariant.withPort (hi : Invariant s) (rest : List Request) : Invariant { s with port := rest } where
  cfg := hi.cfg
  phase := hi.phase
  select := hi.select
  running := hi.running
  fresh := hi.fresh
  operation := hi.operation
  returned := hi.returned
  due := hi.due
  emptied := hi.emptied
  limit := hi.limit
  length := hi.length
  latch := hi.latch
  bracket := hi.bracket
  gate := hi.gate
  events := hi.events
  recorded := hi.recorded
  memory := hi.memory

theorem Bracket.next_blockReset (b : Bracket) : b.next .blockReset = some .closed := by
  cases b <;> rfl

/-- Block reset closes the bracket and the gate (R242). -/
theorem Invariant.blockReset (hi : Invariant s) : Invariant (blockReset s) where
  cfg := hi.cfg
  phase := rfl
  select := rfl
  running := fun h => absurd rfl h
  fresh := fun _ _ => .inr (by simp)
  operation := trivial
  returned := nofun
  due := nofun
  emptied := fun _ => rfl
  limit := nofun
  length := fun h => absurd rfl h
  latch := by rintro (h | h) <;> cases h
  bracket := by
    simp [hi.bracket, Bracket.next_blockReset, bracketAt]
  gate := by
    refine ⟨?_, nofun⟩
    simp [Gate.next, hi.gate.1]
  events := by simpa [or_imp, forall_and, eventLegal] using hi.events
  recorded := nofun
  memory := hi.memory

/-- The end (R191): no bracket is open when it is due. -/
theorem Invariant.endOp (hi : Invariant s) (he : s.ending = some r) : Invariant (endOp r s) where
  cfg := hi.cfg
  phase := rfl
  select := by
    obtain ⟨-, -, -, hx⟩ := phaseOk_due hi.phase he
    simp [hi.select, hx]
  running := fun h => absurd rfl h
  fresh := nofun
  operation := trivial
  returned := fun _ => (hi.due r he).2
  due := nofun
  emptied := fun _ => rfl
  limit := nofun
  length := fun h => absurd rfl h
  latch := by rintro (h | h) <;> cases h
  bracket := by
    obtain ⟨-, -, -, hx⟩ := phaseOk_due hi.phase he
    simp [hi.bracket, hx, bracketAt]
  gate := ⟨hi.gate.1, nofun⟩
  events := hi.events
  recorded := nofun
  memory := hi.memory

/-- `Sel()` (R120). -/
theorem Invariant.selReq (hi : Invariant s) (hx : s.xp = .sel) : Invariant (selReq s) where
  cfg := hi.cfg
  phase := tripleOk_active hi.phase (by simp [hx]) (by simp)
  select := rfl
  running := hi.running
  fresh := by
    intro hm
    have hphase := hi.phase
    simp [phaseOk, tripleOk, show s.main = .idle from hm, hx] at hphase
  operation := hi.operation
  returned := hi.returned
  due := hi.due
  emptied := hi.emptied
  limit := hi.limit
  length := hi.length
  latch := hi.latch
  bracket := by simp [hi.bracket, hx, bracketAt, Bracket.next]
  gate := by
    obtain ⟨hbroken, hneed⟩ := hi.gate
    refine ⟨by simpa [Gate.next] using hbroken, fun k hk => ?_⟩
    have he := ending_of_active hi.phase (.inl (by simp [hx]))
    rw [gateNeed_pending (s := Machine.selReq s) he, readsNeeded_of_ne_desel (by simp)] at hk
    simpa [Gate.next] using hneed k (by rwa [gateNeed_pending he, readsNeeded_of_ne_desel (by simp [hx])])
  events := by simpa [or_imp, forall_and, eventLegal] using hi.events
  recorded := nofun
  memory := hi.memory

/-! ### The exchange -/

theorem isMutating_frameOf (hi : isEmitted i = true) (c : Cfg) :
    isMutating (frameOf c i) = true ↔ (∃ a, i = .se a) ∨ ∃ a d, i = .pp a d := by
  cases i
  case se | pp => simp [isMutating, frameOf, firstByte]
  case rsten | rst | rdid | rdsr | wren | rd => simp [isMutating, frameOf, firstByte]
  all_goals cases hi

/-- The frame of the phase's command is one the sequencer may send (R86, R92). -/
theorem Invariant.frameLegal (hi : Invariant s) (hc : phaseCommand s = some i) : frameLegal s.cfg (frameOf s.cfg i) := by
  have hemit := (phaseCommand_spec hi.phase hc).2.2.1
  have hfits := hi.frame_fits hc
  cases i
  case pp a d => simp_all [Machine.frameLegal, frameOf, firstByte]
  case rd a n => simp_all [Machine.frameLegal, frameOf, firstByte]
  case rsten | rst | rdid | rdsr | wren | se => simp [Machine.frameLegal, frameOf, firstByte]
  all_goals cases hemit

/-- A mutating command has the gate armed with two status reads (R62). -/
theorem Invariant.armed_of_mutating (hi : Invariant s) (hx : s.xp = .xchg) (hc : phaseCommand s = some i)
    (hmut : isMutating (frameOf s.cfg i) = true) :
    (s.main = .erCmd ∨ s.main = .ppCmd) ∧ ∃ n, 2 ≤ n ∧ gateOf s.trace = .armed n := by
  obtain ⟨⟨he, hphase⟩, -, hemit, -⟩ := phaseCommand_spec hi.phase hc
  have hmain : s.main = .erCmd ∨ s.main = .ppCmd := by
    rcases (isMutating_frameOf hemit _).mp hmut with ⟨a, rfl⟩ | ⟨a, d, rfl⟩
    · exact .inl hphase.1
    · exact .inr hphase.1
  refine ⟨hmain, hi.gate.2 2 ?_⟩
  rw [gateNeed_pending he, hx]
  rcases hmain with hmain | hmain <;> rw [hmain] <;> rfl

/-- The status reads that the gate has seen after this exchange (R62). -/
theorem Invariant.reads_after_exchange (hi : Invariant s) (hx : s.xp = .xchg) (hc : phaseCommand s = some i)
    {ok : Bool} {k : Nat} (hk : readsNeeded s.main .desel ok = some k) :
    ∃ n, k ≤ n ∧ (gateOf s.trace).exchange (frameOf s.cfg i) ok = .armed n := by
  have he := ending_of_phaseCommand hc
  have rdsr (hm : isWait s.main = true ∨ s.main = .weVerify ∨ s.main = .rdCheck) : i = .rdsr :=
    Option.some.inj (hc.symm.trans ((phaseCommand_rdsr_iff hi.phase (by simp [hx])).mpr hm))
  have seen {k : Nat} (h : readsNeeded s.main .xchg s.answer.isSome = some k) :
      ∃ n, k ≤ n ∧ gateOf s.trace = .armed n := hi.gate.2 k (by rw [gateNeed_pending he, hx, h])
  cases hm : s.main <;> simp [hm, readsNeeded] at hk
  case weWait2 =>
    obtain ⟨rfl, rfl⟩ := hk
    obtain rfl := rdsr (by simp [hm, isWait])
    obtain ⟨n, -, hn⟩ := seen (k := 0) (by simp [hm, readsNeeded])
    exact ⟨n + 1, by omega, by rw [hn]; exact Gate.exchange_rdsr n _⟩
  case weVerify =>
    obtain ⟨rfl, rfl⟩ := hk
    obtain rfl := rdsr (by simp [hm])
    obtain ⟨n, hn1, hn⟩ := seen (k := 1) (by simp [hm, readsNeeded])
    exact ⟨n + 1, by omega, by rw [hn]; exact Gate.exchange_rdsr n _⟩

/-- `Xchg(tx)` of the phase's frame (R122). -/
theorem Invariant.xchgReq (hi : Invariant s) (hc : phaseCommand s = some i) (hx : s.xp = .xchg) :
    Invariant (xchgReq (frameOf s.cfg i) s) where
  cfg := hi.cfg
  phase := tripleOk_active hi.phase (by simp [hx]) (by simp)
  select := by simp [hi.select, hx]
  running := hi.running
  fresh := fun hm => absurd hm (phaseCommand_spec hi.phase hc).2.2.2
  operation := hi.operation
  returned := hi.returned
  due := hi.due
  emptied := fun hm => absurd hm (phaseCommand_spec hi.phase hc).2.2.2
  limit := hi.limit
  length := hi.length
  latch := hi.latch
  bracket := by simp [hi.bracket, hx, bracketAt, Bracket.next]
  gate := by
    have he := ending_of_phaseCommand hc
    refine ⟨?_, fun k hk => ?_⟩
    · simpa [Gate.next] using
        Gate.exchange_ne_broken hi.gate.1 fun hmut => (hi.armed_of_mutating hx hc hmut).2
    · rw [gateNeed_pending (s := Machine.xchgReq _ s) he] at hk
      simpa [Gate.next] using hi.reads_after_exchange hx hc hk
  events := by
    simp only [xchgReq_trace, List.mem_append, List.mem_singleton]
    rintro e (he | rfl)
    · exact hi.events e he
    · exact ⟨hi.frameLegal hc, fun _ hrx => Transport.exchange_length hrx⟩
  recorded := fun _ => ⟨i, hc, by simp⟩
  memory := ⟨hi.memory.1, hi.memory.2.1, Transport.exchange_array_wf hi.memory.2.2 _ _⟩

/-! ### Every step -/

/-- A command's step keeps the invariant, at each place of `XP`. -/
theorem Invariant.command (hi : Invariant s) (hr : s.resetLine = false) (hc : phaseCommand s = some i)
    (h : step s = .next t) : Invariant t := by
  have he := h
  obtain ⟨-, -, hemit, -⟩ := phaseCommand_spec hi.phase hc
  rw [step_command hr hi.phase hc] at he
  obtain ⟨-, ⟨hx, rfl⟩ | ⟨hx, rfl⟩ | ⟨hx, -⟩ | ⟨hx, -⟩⟩ := exec_command_next hemit he
  · exact hi.selReq hx
  · exact hi.xchgReq hc hx
  all_goals rw [step_report hr hc hx h]; exact hi.report hc hx

/-- A start keeps the invariant, also when the length check rejects (R216). -/
theorem Invariant.start {q : Request} {rest : List Request} (hi : Invariant s) (hidle : isIdle s = true)
    (hop : isOperation i = true) : Invariant (firstOf i (latched i (takeRequest q rest s))) := by
  have hb := hi.between_latched (q := q) (rest := rest) hidle i
  have he : (latched i (takeRequest q rest s)).ending = none :=
    (latched_keeps i _).1.trans (isIdle_iff.mp hidle).2.2.2
  cases i
  case reset =>
    exact hb.enter (m := .rstEn) nofun he rfl (by simp [LengthOk, latched, opOf, hostReset]) (by simp) (.of_none rfl)
  case readJedecID =>
    exact hb.enter (m := .id) nofun he rfl (by simp [LengthOk, latched, opOf, hostReadJedecID]) (by simp) (.of_none rfl)
  case writeEnable =>
    exact hb.enter (m := .weWait1) nofun he (.inl rfl) (by simp [LengthOk, latched, opOf, hostWriteEnable]) (by simp)
      (.of_none rfl)
  case sectorErase a =>
    exact hb.enter (m := .weWait1) nofun he (.inr (.inl rfl)) (by simp [LengthOk, latched, hostSectorErase]) (by simp)
      (.of_none rfl)
  case pageProgram a n =>
    rw [firstOf]
    cases hl : tooLong s.cfg n with
    | false =>
      rw [lengthChecked_ok hl]
      exact hb.enter (m := .weWait1) nofun he (.inr (.inr rfl)) (fun _ => tooLong_eq_false.mp hl) (by simp) (.of_none rfl)
    | true =>
      rw [lengthChecked_rejects hl]
      exact Between.endDue ⟨hb.cfg, hb.select, hb.running, hb.bracket, hb.gate, hb.events, hb.memory⟩ nofun rfl
        (.inr (.inr rfl)) rfl rfl (.inr (.inl rfl)) (by simp)
  case read a n =>
    rw [firstOf]
    cases hl : tooLong s.cfg n with
    | false =>
      rw [lengthChecked_ok hl]
      exact hb.enter (m := .rdCheck) nofun he rfl (fun _ => tooLong_eq_false.mp hl) (by simp) (.of_none rfl)
    | true =>
      rw [lengthChecked_rejects hl]
      exact Between.endDue ⟨hb.cfg, hb.select, hb.running, hb.bracket, hb.gate, hb.events, hb.memory⟩ nofun rfl
        rfl rfl rfl (.inr (.inr rfl)) (by simp)
  all_goals cases hop

/-- A delay between the reset frames or after them (R192). -/
theorem Invariant.resetDelay {n : Nat} {m : Main} (hi : Invariant s) (hd : DelayPhase n s)
    (hs : isDelay s.main = true) (hm : phaseOf 0 m) (hmm : m ≠ .idle) (hne : m ≠ .erCmd ∧ m ≠ .ppCmd)
    (hreads : readsNeeded m .sel false = none) : Invariant (enter m (delayReq n s)) := by
  have hop : s.op = 0 := by
    have hop := hi.operation
    cases hmain : s.main <;> simp_all [isDelay, phaseOf]
  exact (hi.between_delayReq hd).enter hmm (ending_of_active hi.phase (.inr (.inr hs)))
    (by simpa [hop] using hm) (by simp [LengthOk, hop]) (by simp [hne]) (.of_none hreads)

/-- The delay of a wait (R194): `POLLCNT` was below the limit. -/
theorem Invariant.pace (hi : Invariant s) (hw : isWait s.main = true) (hd : s.poll = .delay) :
    Invariant (nextPoll (delayReq 1 s)) := by
  have he := ending_of_active hi.phase (.inr (.inl (by simp [hd])))
  have hm : s.main ≠ .idle := by rintro hm; simp [hm, isWait] at hw
  have hb := hi.between_delayReq (n := 1) (.inl ⟨rfl, .inr ⟨hw, hd⟩⟩)
  obtain ⟨l, hl⟩ := (isWait_iff (c := s.cfg)).mp hw
  obtain ⟨rfl, -, hlt⟩ := hi.limit l hl (by simp [hd])
  have hlt := hlt hd
  refine Between.polling ⟨hb.cfg, hb.select, hb.running, hb.bracket, hb.gate, hb.events, hb.memory⟩ hw he
    (.inl ⟨rfl, rfl⟩) hi.operation (hi.lengthOk he hm) hl
    (by simp only [nextPoll_pollcnt, nextPoll_tlim, delayReq_pollcnt, delayReq_tlim]; bv_omega)
    (.of_wait hw fun hmain => ?_)
  have hmain : s.main = .weWait2 := hmain
  have hneed : gateNeed s = some 0 := by
    rw [gateNeed_pending he, xp_of_delayPhase hi.phase (.inl ⟨rfl, .inr ⟨hw, hd⟩⟩), hmain]
    rfl
  obtain ⟨n, -, hn⟩ := hi.gate.2 0 hneed
  exact ⟨n, by simpa [Gate.next] using hn⟩

/-- Settles O38: each case of `step_next` by its own lemma. -/
theorem everyStepKeepsTheInvariant : Obligations.EveryStepKeepsTheInvariant := by
  intro s t hi h
  cases step_next h with
  | reset _ ht => exact ht ▸ hi.blockReset
  | quiet _ _ _ ht => exact ht ▸ hi
  | reserved _ rest _ _ _ ht => exact ht ▸ hi.withPort rest
  | start q rest i _ hidle _ _ hop he =>
    obtain ⟨-, rfl⟩ := exec_operation_next hop he
    exact hi.start hidle hop
  | command i hr _ hc _ _ => exact hi.command hr hc h
  | ends r _ _ he ht => exact ht ▸ hi.endOp he
  | gap _ _ _ hm ht =>
    exact ht ▸ hi.resetDelay (.inl ⟨rfl, .inl hm⟩) (by simp [hm, isDelay]) rfl nofun ⟨nofun, nofun⟩ rfl
  | settle _ _ _ hm ht =>
    exact ht ▸ hi.resetDelay (.inr ⟨rfl, hm⟩) (by simp [hm, isDelay]) rfl nofun ⟨nofun, nofun⟩ rfl
  | pace _ _ _ hw hd ht => exact ht ▸ hi.pace hw hd

theorem implementation_ok : Config.implementation.ok = true := by
  refine Cfg.ok_iff.mpr ⟨Nat.le_add_left 1 _, ?_, ?_, Nat.succ_ne_zero _⟩
  · exact Nat.mod_lt Config.freePageSize (show 0 < 65535 by omega)
  · exact Nat.mod_lt Config.freeWelBit (show 0 < 7 by omega)

/-- Settles O37: the constraints of R7 hold of the free configuration, and the rest is that of an idle state. -/
theorem resetMeetsTheInvariant : Obligations.ResetMeetsTheInvariant where
  cfg := implementation_ok
  phase := rfl
  select := rfl
  running := fun h => absurd rfl h
  fresh := fun _ _ => .inl rfl
  operation := trivial
  returned := nofun
  due := nofun
  emptied := fun _ => rfl
  limit := nofun
  length := fun h => absurd rfl h
  latch := by rintro (h | h) <;> cases h
  bracket := rfl
  gate := ⟨nofun, nofun⟩
  events := nofun
  recorded := nofun
  memory := ⟨Memory.wf_nil, Memory.wf_nil, Memory.wf_nil⟩

end Sys2Proof.Machine
end

section
/-! What follows from the invariant: progress, the matrix of results over runs, the balance of a trace, the gate in
front of a mutating frame, and the end of every operation. -/

namespace Sys2Proof.Machine

variable {s t u : State} {i : Instr} {r : Result}

/-! ### Progress -/

theorem CanRun.goes_on (h : CanRun i s) (hx : s.xp ≠ .none) : ∃ t, exec i s = .next t := by
  cases hxp : s.xp with
  | none => exact absurd hxp hx
  | sel => exact ⟨_, exec_sel h hxp⟩
  | xchg => exact ⟨_, exec_xchg h hxp⟩
  | desel => exact ⟨_, exec_desel h hxp⟩

/-- An operation in flight always makes its next step (R196). -/
theorem Invariant.goes_on_in_flight (hi : Invariant s) (hu : Undisturbed s) (hm : s.main ≠ .idle) :
    ∃ t, step s = .next t := by
  obtain ⟨hr, hh⟩ := hu
  cases he : s.ending with
  | some r => exact ⟨_, step_end hr hi.phase he⟩
  | none =>
    rcases phase_split hi.phase he hm with ⟨i, hc⟩ | hg | hg | ⟨hw, hd⟩
    · rw [step_command hr hi.phase hc]
      exact (hi.canRun hh hc).goes_on (phaseCommand_spec hi.phase hc).2.1
    · exact ⟨_, (step_gap hr hi.phase hg).trans (delayStep_runs hh)⟩
    · exact ⟨_, (step_settle hr hi.phase hg).trans (delayStep_runs hh)⟩
    · exact ⟨_, (step_pace hr hi.phase hw hd).trans (delayStep_runs hh)⟩

/-- A host record decodes to an operation, or names a reserved code (R89). -/
theorem decodeRequest_answer (op : BitVec 3) (a : Addr) (n : Len) :
    (∃ i, decodeRequest op a n = .ok i ∧ isOperation i = true) ∨ decodeRequest op a n = .error (.reservedOp op) := by
  unfold decodeRequest
  split
  · exact .inl ⟨_, rfl, rfl⟩
  · split
    · exact .inl ⟨_, rfl, rfl⟩
    · split
      · exact .inl ⟨_, rfl, rfl⟩
      · split
        · exact .inl ⟨_, rfl, rfl⟩
        · split
          · exact .inl ⟨_, rfl, rfl⟩
          · split
            · exact .inl ⟨_, rfl, rfl⟩
            · exact .inr rfl

/-- No wire command runs in the idle state. -/
theorem exec_refused_in_idle (hm : s.main = .idle) (hi : isOperation i = false) : ∃ why, exec i s = .refused why := by
  cases hemit : isEmitted i with
  | true =>
    refine ⟨_, commandsOutOfPhaseAreRefused i s hemit ?_⟩
    cases i <;> simp [inItsPhase, hm, isWait]
  | false =>
    cases i
    case wrsr | wrdi | rstff => exact ⟨_, rfl⟩
    case rsten | rst | rdid | rdsr | wren | se | pp | rd => cases hemit
    all_goals cases hi

/-- A frame at the idle machine's port is refused, whatever it decodes to (R3). -/
theorem step_frame {q : Request} {rest : List Request} {bytes : List Byte} (hr : s.resetLine = false)
    (hidle : isIdle s = true) (hp : s.port = q :: rest) (hc : q.code = .frame bytes) :
    ∃ why, step s = .refused why := by
  rw [step_request hr hidle hp, hc]
  have hanswer := decode_frame_answer bytes
  cases hd : decode (.frame bytes) with
  | ok i =>
    rw [hd] at hanswer
    exact exec_refused_in_idle (s := takeRequest q rest s) (isIdle_iff.mp hidle).1 hanswer
  | error e =>
    rw [hd] at hanswer
    cases e with
    | reservedOp op => exact absurd rfl (hanswer op)
    | emptyFrame | unknownOpcode | badLength => exact ⟨_, rfl⟩

/-- A request record at the idle machine's port is started or dropped. -/
theorem step_record {q : Request} {rest : List Request} {op : BitVec 3} {a : Addr} {n : Len} (hr : s.resetLine = false)
    (hidle : isIdle s = true) (hp : s.port = q :: rest) (hc : q.code = .request op a n) : ∃ t, step s = .next t := by
  rw [step_request hr hidle hp, hc, decode]
  rcases decodeRequest_answer op a n with ⟨i, hd, hop⟩ | hd
  · rw [hd]
    exact ⟨_, exec_operation_idle hop hidle⟩
  · rw [hd]
    exact ⟨_, rfl⟩

/-- Settles O39: in flight by `goes_on_in_flight`, idle by what is at the port. -/
theorem invariantStatesGoOn : Obligations.InvariantStatesGoOn := by
  intro s hi hh
  cases hr : s.resetLine with
  | true => exact .inl ⟨_, step_reset hr⟩
  | false =>
    by_cases hm : s.main = .idle
    · have hidle := isIdle_of_phaseOk hi.phase hm
      cases hp : s.port with
      | nil => exact .inl ⟨s, step_empty hr hidle hp⟩
      | cons q rest =>
        cases hc : q.code with
        | request op a n => exact .inl (step_record hr hidle hp hc)
        | frame bytes => exact .inr ⟨hm, rfl, q, rest, bytes, rfl, hc, step_frame hr hidle hp hc⟩
    · exact .inl (hi.goes_on_in_flight ⟨hr, hh⟩ hm)

/-! ### Runs -/

theorem steps_succ_next {n : Nat} (h : steps (n + 1) s = .next t) :
    ∃ u, step s = .next u ∧ steps n u = .next t := by
  simp only [steps] at h
  cases hs : step s with
  | next u => rw [hs] at h; exact ⟨u, rfl, h⟩
  | fault _ => rw [hs] at h; cases h
  | refused _ => rw [hs] at h; cases h

/-- The invariant holds along every run. -/
theorem Invariant.steps {n : Nat} (hi : Invariant s) (h : steps n s = .next t) : Invariant t := by
  induction n generalizing s with
  | zero => cases h; exact hi
  | succ n ih =>
    obtain ⟨u, hu, h⟩ := steps_succ_next h
    exact ih (everyStepKeepsTheInvariant s u hi hu) h

/-- Settles O47: the matrix is in the invariant, and no row of it has `EraseFailed`. -/
theorem runsReturnWhatTheMatrixAllows : Obligations.RunsReturnWhatTheMatrixAllows := by
  intro n s t hi h hd
  have hret := (hi.steps h).returned hd
  refine ⟨hret, fun he => ?_⟩
  rw [he] at hret
  exact hret

/-! ### The balance of a trace (R127) -/

@[simp] theorem countXchg_append (tr : List Event) (e : Event) :
    countXchg (tr ++ [e]) = countXchg tr + match e with | .xchg _ _ => 1 | _ => 0 := by
  cases e <;> simp [countXchg]

/-- Brackets opened and not closed yet. -/
def Bracket.unclosed : Bracket → Nat
  | .closed => 0
  | .opened => 1
  | .exchanged => 1

/-- Brackets whose exchange is still to come. -/
def Bracket.unexchanged : Bracket → Nat
  | .closed => 0
  | .opened => 1
  | .exchanged => 0

/-- Every `S` has its `D` and its `X`, but for the bracket that is open. -/
def Balanced (tr : List Event) (b : Bracket) : Prop :=
  tr.count .sel = tr.count .desel + b.unclosed ∧ countXchg tr + b.unexchanged = tr.count .sel

theorem Balanced.next {tr : List Event} {b b' : Bracket} {e : Event} (h : Balanced tr b) (hne : e ≠ .blockReset)
    (hb : b.next e = some b') : Balanced (tr ++ [e]) b' := by
  unfold Balanced at h ⊢
  cases e
  case blockReset => exact absurd rfl hne
  all_goals
    cases b <;> simp [Bracket.next] at hb
    subst hb
    simp [Bracket.unclosed, Bracket.unexchanged] at h ⊢
    omega

theorem balanced_of_bracketOf {tr : List Event} {b : Bracket} (h : bracketOf tr = some b)
    (hne : Event.blockReset ∉ tr) : Balanced tr b := by
  induction tr using List.reverseRecOn generalizing b with
  | nil => cases h; exact ⟨rfl, rfl⟩
  | append_singleton tr e ih =>
    rw [bracketOf_append] at h
    obtain ⟨b', hb', hnext⟩ := Option.bind_eq_some_iff.mp h
    simp only [List.mem_append, List.mem_singleton, not_or] at hne
    exact (ih hb' hne.1).next (Ne.symm hne.2) hnext

/-- Settles O46: the invariant says which bracket is open, and a trace is balanced but for that one. -/
theorem closedTracesBalance : Obligations.ClosedTracesBalance := by
  intro n s t hi h hne
  have hbal := balanced_of_bracketOf (hi.steps h).bracket hne
  unfold Balanced at hbal
  refine ⟨fun hx => ?_, fun hx => ?_, fun hx => ?_⟩
  · rcases hx with hx | hx <;> simpa [hx, bracketAt, Bracket.unclosed, Bracket.unexchanged] using hbal
  · simpa [hx, bracketAt, Bracket.unclosed, Bracket.unexchanged] using hbal
  · simpa [hx, bracketAt, Bracket.unclosed, Bracket.unexchanged] using hbal

/-! ### What stands behind an armed gate (R62) -/

/-- The events that keep the gate armed: brackets, 1 ms delays and completed status reads. -/
def QuietEvent (e : Event) : Prop :=
  e = .sel ∨ e = .desel ∨ e = .delay 1 ∨ ∃ f r0 st, e = .xchg [0x05, f] (some [r0, st])

/-- The trace ends in a completed write-enable frame and then at least `n` status reads, and nothing else but brackets
and 1 ms delays. -/
def ArmedTrace (n : Nat) (tr : List Event) : Prop :=
  ∃ (pre post : List Event) (r : List Byte), tr = pre ++ .xchg [0x06] (some r) :: post ∧ n ≤ countXchg post ∧
    ∀ e ∈ post, QuietEvent e

theorem ArmedTrace.extend {n m : Nat} {tr : List Event} {e : Event} (h : ArmedTrace n tr) (he : QuietEvent e)
    (hm : ∀ post, n ≤ countXchg post → m ≤ countXchg (post ++ [e])) : ArmedTrace m (tr ++ [e]) := by
  obtain ⟨pre, post, r, rfl, hn, hpost⟩ := h
  refine ⟨pre, post ++ [e], r, by simp, hm post hn, fun x hx => ?_⟩
  rcases List.mem_append.mp hx with hx | hx
  · exact hpost x hx
  · rw [List.mem_singleton.mp hx]; exact he

/-- The two exchanges that leave the gate armed. -/
theorem Gate.exchange_armed {g : Gate} {tx : List Byte} {ok : Bool} {n : Nat} (h : g.exchange tx ok = .armed n) :
    (firstByte tx = 0x06 ∧ ok = true ∧ n = 0) ∨
      ∃ m, g = .armed m ∧ firstByte tx = 0x05 ∧ ok = true ∧ n = m + 1 := by
  cases g with
  | broken => cases h
  | shut =>
    simp only [Gate.exchange] at h
    split_ifs at h with hmut hwren
    · simp only [Bool.and_eq_true, decide_eq_true_eq] at hwren
      cases h
      exact .inl ⟨hwren.1, hwren.2, rfl⟩
  | armed m =>
    simp only [Gate.exchange] at h
    split_ifs at h with hmut hreads hwren hrdsr
    · simp only [Bool.and_eq_true, decide_eq_true_eq] at hwren
      cases h
      exact .inl ⟨hwren.1, hwren.2, rfl⟩
    · simp only [Bool.and_eq_true, decide_eq_true_eq] at hrdsr
      cases h
      exact .inr ⟨m, rfl, hrdsr.1, hrdsr.2, rfl⟩

/-- A legal write-enable frame is its opcode alone, and a legal status read has one byte after it (R86). -/
theorem frameLegal_wren {c : Cfg} {tx : List Byte} (h : frameLegal c tx) (hb : firstByte tx = 0x06) : tx = [0x06] := by
  have hlen : tx.length = 1 := by simpa [frameLegal, hb] using h
  obtain ⟨b, rfl⟩ := List.length_eq_one_iff.mp hlen
  exact congrArg (fun b => [b]) hb

theorem frameLegal_rdsr {c : Cfg} {tx : List Byte} (h : frameLegal c tx) (hb : firstByte tx = 0x05) :
    ∃ f, tx = [0x05, f] := by
  have hlen : tx.length = 2 := by simpa [frameLegal, hb] using h
  obtain ⟨b, f, rfl⟩ := List.length_eq_two.mp hlen
  exact ⟨f, congrArg (fun b => [b, f]) hb⟩

theorem armedTrace_exchange {c : Cfg} {tr : List Event} {tx : List Byte} {rx : Option (List Byte)} {n : Nat}
    (ih : ∀ m, gateOf tr = .armed m → ArmedTrace m tr) (he : eventLegal c (.xchg tx rx))
    (h : gateOf (tr ++ [.xchg tx rx]) = .armed n) : ArmedTrace n (tr ++ [.xchg tx rx]) := by
  obtain ⟨hlegal, hlength⟩ := he
  rw [gateOf_append] at h
  rcases Gate.exchange_armed h with ⟨hb, hok, rfl⟩ | ⟨m, hm, hb, hok, rfl⟩
  · obtain ⟨r, rfl⟩ := Option.isSome_iff_exists.mp hok
    exact ⟨tr, [], r, by rw [frameLegal_wren hlegal hb], Nat.zero_le _, nofun⟩
  · obtain ⟨r, rfl⟩ := Option.isSome_iff_exists.mp hok
    obtain ⟨f, rfl⟩ := frameLegal_rdsr hlegal hb
    obtain ⟨r0, st, rfl⟩ := List.length_eq_two.mp (hlength r rfl)
    exact (ih m hm).extend (.inr (.inr (.inr ⟨f, r0, st, rfl⟩))) fun post hp => by simpa using hp

/-- An armed gate shows its write-enable frame and its reads in the trace. -/
theorem armedTrace_of_gateOf {c : Cfg} {tr : List Event} (hlegal : ∀ e ∈ tr, eventLegal c e) (n : Nat)
    (h : gateOf tr = .armed n) : ArmedTrace n tr := by
  induction tr using List.reverseRecOn generalizing n with
  | nil => cases h
  | append_singleton tr e ih =>
    have ih := ih fun e he => hlegal e (List.mem_append_left _ he)
    have he := hlegal e (by simp)
    have keep (hq : QuietEvent e) (hg : gateOf tr = .armed n) : ArmedTrace n (tr ++ [e]) :=
      (ih n hg).extend hq fun post hp => by simpa using Nat.le_add_right_of_le hp
    cases e with
    | sel => exact keep (.inl rfl) (by simpa [Gate.next] using h)
    | desel => exact keep (.inr (.inl rfl)) (by simpa [Gate.next] using h)
    | delay ms =>
      simp only [gateOf_append, Gate.next] at h
      split at h
      · rename_i hms
        have hms : ms = 1 := by simpa [h] using hms
        exact keep (.inr (.inr (.inl (by rw [hms])))) h
      · cases h
    | blockReset =>
      simp only [gateOf_append, Gate.next] at h
      split at h <;> cases h
    | xchg tx rx => exact armedTrace_exchange ih he h

/-- A step that adds an exchange is the phase's command sending its frame. -/
theorem Invariant.step_adds_xchg {tx : List Byte} {rx : Option (List Byte)} (hi : Invariant s) (h : step s = .next t)
    (ht : t.trace = s.trace ++ [.xchg tx rx]) : ∃ i, phaseCommand s = some i ∧ s.xp = .xchg ∧ tx = frameOf s.cfg i := by
  cases adds_of_trace h ht with
  | xchg _ _ hx _ =>
    obtain ⟨i, hc⟩ := phaseCommand_of_active hi.phase (by simp [hx])
    cases hr : s.resetLine with
    | true =>
      rw [step_reset hr] at h
      cases h
      simp at ht
    | false =>
      rw [step_command hr hi.phase hc] at h
      obtain ⟨-, ⟨hx', -⟩ | ⟨-, rfl⟩ | ⟨hx', -⟩ | ⟨hx', -⟩⟩ := exec_command_next (phaseCommand_spec hi.phase hc).2.2.1 h
      · simp [hx] at hx'
      · simp at ht
        exact ⟨i, hc, hx, ht.1.symm⟩
      · simp [hx] at hx'
      · simp [hx] at hx'

/-- Settles O45: a mutating command runs with the gate armed by two reads, and an armed gate shows in the trace. -/
theorem mutatingFramesAreGated : Obligations.MutatingFramesAreGated := by
  intro s t tx rx hi h ht hb
  obtain ⟨i, hc, hx, rfl⟩ := hi.step_adds_xchg h ht
  obtain ⟨hmain, n, hn, hgate⟩ := hi.armed_of_mutating hx hc (by simpa [isMutating] using hb)
  obtain ⟨pre, post, r, htrace, hcount, hpost⟩ := armedTrace_of_gateOf hi.events n hgate
  exact ⟨hi.latch hmain, pre, post, r, htrace, hn.trans hcount, hpost⟩

/-! ### Every operation ends (R196) -/

/-- The requests left of a transaction. -/
def xpLeft : Xp → Nat
  | .none => 0
  | .sel => 3
  | .xchg => 2
  | .desel => 1

/-- The most steps an operation can take after the outcome of this phase is known, its end included (R192): three for
each frame, one for each delay, and `4 T + 3` for a wait with limit `T`. -/
def stepsAfter (c : Cfg) : Main → Nat
  | .idle => 0
  | .rstEn => 4 * c.toReset.toNat + 9
  | .rstGap => 4 * c.toReset.toNat + 8
  | .rstCmd => 4 * c.toReset.toNat + 5
  | .rstSettle => 4 * c.toReset.toNat + 4
  | .weWait1 => 4 * c.toWe.toNat + 4 * max c.toErase.toNat c.toProg.toNat + 16
  | .weCmd => 4 * c.toWe.toNat + 4 * max c.toErase.toNat c.toProg.toNat + 13
  | .weWait2 => 4 * max c.toErase.toNat c.toProg.toNat + 10
  | .weVerify => 4 * max c.toErase.toNat c.toProg.toNat + 7
  | .erCmd => 4 * c.toErase.toNat + 4
  | .ppCmd => 4 * c.toProg.toNat + 4
  | .rdCheck => 4
  | .rstWait | .id | .erWait | .ppWait | .rdCmd => 1

/-- The steps left of the phase's own activity: its delay, or its transaction and the rest of its wait. -/
def stepsInPhase (s : State) : Nat :=
  if isDelay s.main then 1
  else xpLeft s.xp + if isWait s.main then 4 * (s.tlim.toNat - s.pollcnt.toNat) else 0

/-- The most steps until the operation in flight has ended. -/
def stepsLeft (s : State) : Nat := if s.ending.isSome then 1 else stepsInPhase s + stepsAfter s.cfg s.main

theorem stepsLeft_endDue (r : Result) (s : State) : stepsLeft (endDue r s) = 1 := rfl

theorem stepsLeft_pending (he : s.ending = none) : stepsLeft s = stepsInPhase s + stepsAfter s.cfg s.main := by
  simp [stepsLeft, he]

/-- The most steps of an operation from the entry of a phase on. -/
def stepsFrom (c : Cfg) (m : Main) : Nat :=
  (if isDelay m then 1 else 3 + (waitLimit c m).elim 0 fun l => 4 * l.toNat) + stepsAfter c m

theorem stepsLeft_enter (m : Main) (he : s.ending = none) : stepsLeft (enter m s) = stepsFrom s.cfg m := by
  rw [stepsLeft_pending (by simpa using he)]
  cases m <;> simp [stepsInPhase, stepsFrom, enter, waitLimit, isDelay, isWait, xpLeft]

theorem stepsAfter_pos {m : Main} (hm : m ≠ .idle) (c : Cfg) : 1 ≤ stepsAfter c m := by
  cases m <;> first | exact absurd rfl hm | simp [stepsAfter]

theorem stepsInPhase_of_command (hd : isDelay s.main = false) :
    stepsInPhase s = xpLeft s.xp + if isWait s.main then 4 * (s.tlim.toNat - s.pollcnt.toNat) else 0 := by
  simp [stepsInPhase, hd]

/-- Each outcome of a status read leaves no more steps than the phase had after it (R192, R194). -/
theorem AfterStatus.stepsLeft_le (h : AfterStatus s t) (he : s.ending = none)
    (hm : s.main ≠ .idle) (hx : s.xp = .none) : stepsLeft t ≤ stepsLeft s := by
  have hpos := stepsAfter_pos hm s.cfg
  rw [stepsLeft_pending he]
  cases h
  case waitDone | timeout | noLatch | enabled | deviceBusy => rw [stepsLeft_endDue]; omega
  case pace =>
    rw [stepsLeft_pending (s := { s with poll := .delay, xp := .none }) he]
    simp [stepsInPhase, hx]
  case toRead hmain _ =>
    rw [stepsLeft_enter _ he, hmain]
    simp [stepsFrom, stepsAfter, isDelay, waitLimit]
  case toCommand hmain _ | toVerify hmain _ | toErase hmain _ _ | toProgram hmain _ _ =>
    rw [stepsLeft_enter _ he, hmain]
    simp only [stepsFrom, stepsAfter, isDelay, waitLimit, Option.elim, Bool.false_eq_true, if_false]
    omega

/-- The report of a command leaves no more steps than its phase had after it. -/
theorem goOf_stepsLeft_le {rx : List Byte} (hphase : inItsPhase i s) (hm : s.main ≠ .idle)
    (hx : s.xp = .none) : stepsLeft (goOf i rx s) ≤ stepsLeft s := by
  obtain ⟨he, hmain⟩ := hphase
  have hpos := stepsAfter_pos hm s.cfg
  cases i
  case rdsr => exact (statusRead_after rx s).stepsLeft_le he hm hx
  case rdid | rd =>
    rw [stepsLeft_pending he]
    exact le_trans hpos (Nat.le_add_left _ _)
  case rsten | rst | wren | se | pp =>
    obtain ⟨hmain, -⟩ := hmain
    rw [stepsLeft_pending he]
    simp only [goOf, stepsLeft_enter _ he, hmain, stepsFrom, stepsAfter, isDelay, waitLimit, Option.elim,
      Bool.false_eq_true, if_false, if_true]
    omega
  all_goals exact hmain.elim

/-- A request of a transaction is one step. -/
theorem stepsLeft_request (he : s.ending = none) (hd : isDelay s.main = false) (ht : t.ending = none)
    (hmain : t.main = s.main) (hcfg : t.cfg = s.cfg) (hlim : t.tlim = s.tlim ∧ t.pollcnt = s.pollcnt)
    (hx : xpLeft s.xp = xpLeft t.xp + 1) : stepsLeft s = stepsLeft t + 1 := by
  obtain ⟨htlim, hcnt⟩ := hlim
  rw [stepsLeft_pending he, stepsLeft_pending ht, stepsInPhase_of_command hd, stepsInPhase_of_command (hmain ▸ hd), hmain,
    hcfg, htlim, hcnt, hx]
  omega

theorem stepsLeft_command (hi : Invariant s) (hr : s.resetLine = false) (hc : phaseCommand s = some i)
    (h : step s = .next t) : stepsLeft t < stepsLeft s := by
  obtain ⟨⟨he, hphase⟩, hne, hemit, hm⟩ := phaseCommand_spec hi.phase hc
  have hd := hi.no_delay_of_command hne
  have request (u : State) (hu : u.ending = none) (hmain : u.main = s.main) (hcfg : u.cfg = s.cfg)
      (hlim : u.tlim = s.tlim ∧ u.pollcnt = s.pollcnt) (hx : xpLeft s.xp = xpLeft u.xp + 1) :
      stepsLeft u < stepsLeft s := by
    have := stepsLeft_request he hd hu hmain hcfg hlim hx
    omega
  rw [step_command hr hi.phase hc] at h
  obtain ⟨-, ⟨hx, rfl⟩ | ⟨hx, rfl⟩ | ⟨hx, -, rfl⟩ | ⟨hx, rx, -, rfl⟩⟩ := exec_command_next hemit h
  · exact request _ he rfl rfl ⟨rfl, rfl⟩ (by simp [hx, xpLeft])
  · exact request _ he rfl rfl ⟨rfl, rfl⟩ (by simp [hx, xpLeft])
  · rw [stepsLeft_endDue, stepsLeft_pending he, stepsInPhase_of_command hd]
    have hpos := stepsAfter_pos hm s.cfg
    simp only [hx, xpLeft]
    omega
  · refine lt_of_le_of_lt (goOf_stepsLeft_le (s := deselReq s) ⟨he, hphase⟩ hm rfl) ?_
    exact request _ he rfl rfl ⟨rfl, rfl⟩ (by simp [hx, xpLeft])

theorem stepsLeft_pace (hi : Invariant s) (hw : isWait s.main = true) (hd : s.poll = .delay) :
    stepsLeft (nextPoll (delayReq 1 s)) < stepsLeft s := by
  have he := ending_of_active hi.phase (.inr (.inl (by simp [hd])))
  have hx := xp_of_delayPhase hi.phase (n := 1) (.inl ⟨rfl, .inr ⟨hw, hd⟩⟩)
  have hdelay : isDelay s.main = false := by cases hm : s.main <;> simp_all [isDelay, isWait]
  obtain ⟨l, hl⟩ := (isWait_iff (c := s.cfg)).mp hw
  obtain ⟨-, -, hlt⟩ := hi.limit l hl (by simp [hd])
  have hlt := hlt hd
  rw [stepsLeft_pending he, stepsLeft_pending (s := nextPoll (delayReq 1 s)) he, stepsInPhase_of_command hdelay,
    stepsInPhase_of_command (s := nextPoll (delayReq 1 s)) hdelay]
  simp only [nextPoll_xp, nextPoll_main, nextPoll_tlim, nextPoll_pollcnt, nextPoll_cfg, delayReq_main, delayReq_tlim,
    delayReq_pollcnt, delayReq_cfg, hw, hx, xpLeft, if_true]
  bv_omega

/-- Every step of an operation in flight brings its end nearer. -/
theorem stepsLeft_lt (hi : Invariant s) (hr : s.resetLine = false) (hm : s.main ≠ .idle) (h : step s = .next t) :
    stepsLeft t < stepsLeft s := by
  cases step_next h with
  | reset hr' _ => simp [hr] at hr'
  | quiet _ hidle | reserved _ _ _ hidle | start _ _ _ _ hidle => exact absurd (isIdle_iff.mp hidle).1 hm
  | command i _ _ hc _ _ => exact stepsLeft_command hi hr hc h
  | ends r _ _ he ht => subst ht; simp [stepsLeft, he, stepsInPhase, stepsAfter, isDelay, isWait, xpLeft]
  | gap _ hp _ hmain ht =>
    have he := ending_of_active hp (.inr (.inr (by simp [hmain, isDelay])))
    subst ht
    rw [stepsLeft_enter (s := delayReq 1 s) _ he, stepsLeft_pending he]
    simp [stepsFrom, stepsInPhase, stepsAfter, hmain, isDelay, waitLimit]
    omega
  | settle _ hp _ hmain ht =>
    have he := ending_of_active hp (.inr (.inr (by simp [hmain, isDelay])))
    subst ht
    rw [stepsLeft_enter (s := delayReq 2 s) _ he, stepsLeft_pending he]
    simp [stepsFrom, stepsInPhase, stepsAfter, hmain, isDelay, waitLimit]
    omega
  | pace _ _ _ hw hd ht => subst ht; exact stepsLeft_pace hi hw hd

/-- The inputs stay as they are while an operation is in flight. -/
theorem Undisturbed.step (hu : Undisturbed s) (hm : s.main ≠ .idle) (h : step s = .next t) : Undisturbed t := by
  obtain ⟨hr, hh⟩ := hu
  cases step_next h with
  | reset hr' _ => simp [hr] at hr'
  | quiet _ hidle | reserved _ _ _ hidle | start _ _ _ _ hidle => exact absurd (isIdle_iff.mp hidle).1 hm
  | command i _ _ _ hi he =>
    have hout := exec_command_outside hi he
    exact ⟨(congrArg State.resetLine hout :).trans hr, (congrArg State.linkHung hout :).trans hh⟩
  | ends r _ _ _ ht => subst ht; exact ⟨hr, hh⟩
  | gap _ _ _ _ ht => subst ht; simp [Undisturbed, hr, hh]
  | settle _ _ _ _ ht => subst ht; simp [Undisturbed, hr, hh]
  | pace _ _ _ _ _ ht => subst ht; exact ⟨hr, hh⟩

theorem Invariant.stepsLeft_le_bound (hi : Invariant s) : stepsLeft s ≤ stepBound s.cfg := by
  cases he : s.ending with
  | some r => simp [stepsLeft, he, stepBound]
  | none =>
    have hlim (l : Millis) (hl : waitLimit s.cfg s.main = some l) : s.tlim.toNat ≤ l.toNat := by
      have hw : isWait s.main = true := (isWait_iff (c := s.cfg)).mpr ⟨l, hl⟩
      rw [(hi.limit l hl (poll_of_isWait hi.phase hw he)).1]
    have hx : xpLeft s.xp ≤ 3 := by cases s.xp <;> simp [xpLeft]
    rw [stepsLeft_pending he]
    unfold stepsInPhase stepBound
    cases hm : s.main <;> simp [hm, waitLimit, isDelay, isWait, stepsAfter] at hlim ⊢ <;> omega

/-- Settles O49: `stepsLeft` falls with every step of the operation, from at most the bound. -/
theorem everyOperationEnds : Obligations.EveryOperationEnds := by
  suffices ends : ∀ k s, stepsLeft s ≤ k → Invariant s → Undisturbed s → s.main ≠ .idle →
      ∃ (n : Nat) (t : State), n ≤ k ∧ steps n s = .next t ∧ isIdle t = true ∧ t.done = true ∧ t.sel = false from
    fun s hi hu hm => ends _ s hi.stepsLeft_le_bound hi hu hm
  intro k
  induction k with
  | zero =>
    intro s hk hi hu hm
    obtain ⟨t, h⟩ := hi.goes_on_in_flight hu hm
    have := stepsLeft_lt hi hu.1 hm h
    omega
  | succ k ih =>
    intro s hk hi hu hm
    obtain ⟨t, h⟩ := hi.goes_on_in_flight hu hm
    have hit := everyStepKeepsTheInvariant s t hi h
    have hlt := stepsLeft_lt hi hu.1 hm h
    by_cases hmt : t.main = .idle
    · have he := (step_to_idle_iff hu.1 hm h).mp ⟨hmt, rfl⟩
      have hend : t = endOp t.result s := Host.Outcome.next.inj (h.symm.trans (step_end hu.1 hi.phase he))
      refine ⟨1, t, Nat.le_add_left _ _, (steps_one s).trans h, isIdle_of_phaseOk hit.phase hmt, ?_, ?_⟩
      · rw [hend]; rfl
      · have hx : t.xp = .none := by rw [hend]; rfl
        simp [hit.select, hx]
    · obtain ⟨n, v, hn, hv, hend⟩ := ih t (by omega) hit (hu.step hm h) hmt
      exact ⟨n + 1, v, by omega, by simp only [steps, h, hv], hend⟩

end Sys2Proof.Machine
end

section
/-! The procedures (41_status_write_enable.md, 42_operations.md) in two combinators: a transaction with what follows it, and
a wait with what follows its success. -/

namespace Sys2Proof.Machine.Procedure

variable {s t : State}

/-! ### The procedures from two combinators -/

@[simp] theorem xact_pollcnt (tx : List Byte) (s : State) : (xact tx s).2.pollcnt = s.pollcnt := rfl
@[simp] theorem xact_tlim (tx : List Byte) (s : State) : (xact tx s).2.tlim = s.tlim := rfl
@[simp] theorem xact_cfg (tx : List Byte) (s : State) : (xact tx s).2.cfg = s.cfg := rfl

/-- A transaction whose failure is `TransportError` (R213), and what the bytes received lead to. -/
def xactThen (tx : List Byte) (go : List Byte → State → Result × State) (s : State) : Result × State :=
  match xact tx s with
  | (none, t) => (.transportError, t)
  | (some rx, t) => go rx t

/-- What follows a success; any other result is returned as it is. -/
def onSuccess (p : Result × State) (go : State → Result × State) : Result × State :=
  match p with
  | (.success, t) => go t
  | (r, t) => (r, t)

@[simp] theorem onSuccess_success (t : State) (go : State → Result × State) : onSuccess (.success, t) go = go t := rfl

theorem onSuccess_pure (p : Result × State) : onSuccess p (fun t => (.success, t)) = p := by
  obtain ⟨r, t⟩ := p
  cases r <;> rfl

theorem onSuccess_assoc (p : Result × State) (f g : State → Result × State) :
    onSuccess (onSuccess p f) g = onSuccess p fun t => onSuccess (f t) g := by
  obtain ⟨r, t⟩ := p
  cases r <;> rfl

theorem onSuccess_xactThen (tx : List Byte) (f : List Byte → State → Result × State) (g : State → Result × State)
    (s : State) : onSuccess (xactThen tx f s) g = xactThen tx (fun rx t => onSuccess (f rx t) g) s := by
  unfold xactThen
  rcases xact tx s with ⟨_ | rx, t⟩ <;> rfl

theorem xactThen_failed {tx : List Byte} {go : List Byte → State → Result × State} (h : (xact tx s).1 = none) :
    xactThen tx go s = (.transportError, (xact tx s).2) := by
  unfold xactThen
  split <;> simp_all

theorem xactThen_answered {tx rx : List Byte} {go : List Byte → State → Result × State}
    (h : (xact tx s).1 = some rx) : xactThen tx go s = go rx (xact tx s).2 := by
  unfold xactThen
  split <;> simp_all

/-- `STATUS` takes the second byte (R142). -/
def statusTaken (rx : List Byte) (s : State) : State := { s with status := rxStatus rx }

@[simp] theorem statusTaken_pollcnt (rx : List Byte) (s : State) : (statusTaken rx s).pollcnt = s.pollcnt := rfl
@[simp] theorem statusTaken_status (rx : List Byte) (s : State) : (statusTaken rx s).status = rxStatus rx := rfl
@[simp] theorem statusTaken_tlim (rx : List Byte) (s : State) : (statusTaken rx s).tlim = s.tlim := rfl

/-- The state before the next poll: one more delay has passed (R144). -/
def paced (s : State) : State := { delayReq Config.pollDelayMs s with pollcnt := s.pollcnt + 1 }

theorem paced_trace (s : State) : (paced s).trace = s.trace ++ [.delay 1] := rfl
@[simp] theorem paced_pollcnt (s : State) : (paced s).pollcnt = s.pollcnt + 1 := rfl
@[simp] theorem paced_tlim (s : State) : (paced s).tlim = s.tlim := rfl

/-- The tests of one poll and what follows, with `polls` more at most (R144). -/
def pollThen (polls : Nat) (rx : List Byte) (s : State) : Result × State :=
  if !busy (rxStatus rx) then (.success, statusTaken rx s)
  else if expired s then (.timeout, statusTaken rx s)
  else pollLoop polls (paced (statusTaken rx s))

theorem pollLoop_succ (polls : Nat) (s : State) :
    pollLoop (polls + 1) s = xactThen (frameStatus s.cfg) (pollThen polls) s := by
  unfold pollLoop readStatus xactThen
  rcases xact (frameStatus s.cfg) s with ⟨_ | rx, t⟩ <;> rfl

/-- The latch test of step 4 (R147). -/
def latchThen (rx : List Byte) (s : State) : Result × State :=
  if !wel s.cfg (rxStatus rx) then (.writeEnableFailed, statusTaken rx s) else (.success, statusTaken rx s)

theorem verifyLatch_eq (s : State) : verifyLatch s = xactThen (frameStatus s.cfg) latchThen s := by
  unfold verifyLatch readStatus xactThen
  rcases xact (frameStatus s.cfg) s with ⟨_ | rx, t⟩ <;> rfl

/-- `WriteEnable` from its command on (R147, steps 2 to 4). -/
def enableLatch (s : State) : Result × State :=
  xactThen (frameBare opWren) (fun _ t => onSuccess (waitReady t.cfg.toWe t) verifyLatch) s

theorem writeEnable_eq (s : State) : writeEnable s = onSuccess (waitReady s.cfg.toWe s) enableLatch := by
  unfold writeEnable
  rcases waitReady s.cfg.toWe s with ⟨r, t⟩
  cases r
  case success =>
    simp only [onSuccess_success, enableLatch, xactThen]
    rcases xact (frameBare opWren) t with ⟨_ | rx, u⟩
    · rfl
    · rcases waitReady u.cfg.toWe u with ⟨r, v⟩
      cases r <;> rfl
  all_goals rfl

theorem gated_eq (next : State → Result × State) (s : State) : gated next s = onSuccess (writeEnable s) next := by
  unfold gated
  rcases writeEnable s with ⟨r, t⟩
  cases r <;> rfl

theorem mutate_eq (tx : List Byte) (limit : Millis) (s : State) :
    mutate tx limit s = xactThen tx (fun _ => waitReady limit) s := by
  unfold mutate xactThen
  rcases xact tx s with ⟨_ | rx, t⟩ <;> rfl

/-- What `sectorErase` does behind the gate (R167). -/
def eraseThen (s : State) : Result × State := mutate (frameErase s.addr) s.cfg.toErase s

/-- What `pageProgram` does behind the gate (R169). -/
def programThen (s : State) : Result × State := mutate (frameProgram s.addr (payload s)) s.cfg.toProg s

theorem sectorErase_eq (s : State) : sectorErase s = onSuccess (writeEnable s) eraseThen :=
  (sectorErase_eq_gated s).trans (gated_eq _ s)

theorem pageProgram_eq (h : tooLong s.cfg s.len = false) : pageProgram s = onSuccess (writeEnable s) programThen :=
  (pageProgram_eq_gated h).trans (gated_eq _ s)

theorem reset_eq (s : State) :
    reset s = xactThen (frameBare opRsten) (fun _ t => xactThen (frameBare opRst)
      (fun _ u => waitReady u.cfg.toReset (delayReq Config.rstSettleMs u)) (delayReq Config.rstGapMs t)) s := by
  unfold reset xactThen
  rcases xact (frameBare opRsten) s with ⟨_ | rx, t⟩
  · rfl
  · rcases h : xact (frameBare opRst) (delayReq Config.rstGapMs t) with ⟨_ | rx, u⟩ <;> simp only [h]

/-- `ID` takes the bytes after the first (R164). -/
def idTaken (rx : List Byte) (s : State) : Result × State :=
  (.success, { s with id0 := rxByte rx 1, id1 := rxByte rx 2, id2 := rxByte rx 3 })

theorem readJedecID_eq (s : State) : readJedecID s = xactThen (frameId s.cfg) idTaken s := by
  unfold readJedecID xactThen
  rcases xact (frameId s.cfg) s with ⟨_ | rx, t⟩ <;> rfl

/-- `RXD` takes the data bytes (R172). -/
def dataTaken (rx : List Byte) (s : State) : Result × State :=
  (.success, { s with rxd := Memory.writeBytes s.rxd 0 (rxData rx s.len.toNat) })

/-- The busy check of `read` and the frame after it (R172). -/
def checkThen (rx : List Byte) (s : State) : Result × State :=
  if busy (rxStatus rx) then (.busy, statusTaken rx s)
  else xactThen (frameRead s.cfg s.addr s.len.toNat) dataTaken (statusTaken rx s)

theorem read_eq (h : tooLong s.cfg s.len = false) : read s = xactThen (frameStatus s.cfg) checkThen s := by
  simp only [read, readStatus, h, Bool.false_eq_true, if_false]
  unfold xactThen
  rcases xact (frameStatus s.cfg) s with ⟨_ | rx, t⟩
  · rfl
  · dsimp only [checkThen]
    split
    · rfl
    · simp only [xactThen, statusTaken]
      rcases xact (frameRead t.cfg t.addr t.len.toNat) { t with status := rxStatus rx } with ⟨_ | rx', u⟩ <;> rfl

theorem read_tooLong (h : tooLong s.cfg s.len = true) : read s = (.readFailed, s) := by
  simp [read, h]

/-- The procedure of an operation, from its latched operands on. -/
def procedureOf : Instr → State → Result × State
  | .readJedecID => readJedecID
  | .writeEnable => writeEnable
  | .sectorErase _ => sectorErase
  | .pageProgram _ _ => pageProgram
  | .read _ _ => read
  | _ => reset

theorem operation_eq {i : Instr} (hi : isOperation i = true) (s : State) :
    operation i s = some (endOp (procedureOf i (latched i s)).1 (procedureOf i (latched i s)).2) := by
  cases i
  case reset | readJedecID | writeEnable | sectorErase | pageProgram | read => rfl
  all_goals cases hi

theorem isOperation_of_operation {i : Instr} (h : operation i s = some t) : isOperation i = true := by
  cases i <;> first | rfl | cases h

end Sys2Proof.Machine.Procedure
end

section
/-! Which registers no procedure looks at: two states that differ only in those run a procedure with the same result, and
still differ only in those after it. With the sequencer's own registers forgotten this is the statement that nothing is
held between operations (10_state.md section 1). -/

namespace Sys2Proof.Machine.Procedure

/-- A view of the state that shows all a procedure looks at (the operands apart), and what each of its moves does. -/
structure Blind (v : State → State) : Prop where
  cfg : ∀ s, (v s).cfg = s.cfg
  answer : ∀ tx s, (xact tx (v s)).1 = (xact tx s).1
  xact : ∀ tx s, v (xact tx (v s)).2 = v (xact tx s).2
  status : ∀ rx s, v (statusTaken rx (v s)) = v (statusTaken rx s)
  delay : ∀ n s, v (delayReq n (v s)) = v (delayReq n s)
  limits : ∀ l c s, v { v s with tlim := l, pollcnt := c } = v { s with tlim := l, pollcnt := c }
  count : ∀ c s, v { v s with pollcnt := c } = v { s with pollcnt := c }
  ident : ∀ rx s, v (idTaken rx (v s)).2 = v (idTaken rx s).2
  data : ∀ rx s, v (dataTaken rx (v s)).2 = v (dataTaken rx s).2

/-- Two procedures' outcomes are the same result in states that look the same. -/
def SameOutcome (v : State → State) (p q : Result × State) : Prop := p.1 = q.1 ∧ v p.2 = v q.2

/-- The view shows the address, or the length. -/
def ShowsAddr (v : State → State) : Prop := ∀ s, (v s).addr = s.addr
def ShowsLen (v : State → State) : Prop := ∀ s, (v s).len = s.len
def ShowsTxd (v : State → State) : Prop := ∀ s, (v s).txd = s.txd

theorem congr_shown {v : State → State} {s t : State} {α : Type} {f : State → α} (hf : ∀ s, f (v s) = f s)
    (h : v s = v t) : f s = f t := by
  rw [← hf s, h, hf t]

theorem SameOutcome.onSuccess {v : State → State} {p q : Result × State} {f g : State → Result × State}
    (h : SameOutcome v p q) (hk : ∀ a b, v a = v b → SameOutcome v (f a) (g b)) :
    SameOutcome v (onSuccess p f) (onSuccess q g) := by
  obtain ⟨r, a⟩ := p
  obtain ⟨r', b⟩ := q
  obtain ⟨rfl : r = r', hab⟩ := h
  cases r
  case success => exact hk a b hab
  all_goals exact ⟨rfl, hab⟩

namespace Blind

variable {v : State → State} {s t : State} (hv : Blind v) (h : v s = v t)
include hv h

theorem cfg_eq : s.cfg = t.cfg := congr_shown hv.cfg h

theorem statusTaken_eq (rx : List Byte) : v (statusTaken rx s) = v (statusTaken rx t) :=
  congr_shown (f := fun s => v (statusTaken rx s)) (hv.status rx) h

theorem delayReq_eq (n : Nat) : v (delayReq n s) = v (delayReq n t) :=
  congr_shown (f := fun s => v (delayReq n s)) (hv.delay n) h

theorem xactThen_eq {tx : List Byte} {f g : List Byte → State → Result × State}
    (hk : ∀ rx, v (Procedure.xact tx s).2 = v (Procedure.xact tx t).2 →
      SameOutcome v (f rx (Procedure.xact tx s).2) (g rx (Procedure.xact tx t).2)) :
    SameOutcome v (xactThen tx f s) (xactThen tx g t) := by
  have hstate : v (Procedure.xact tx s).2 = v (Procedure.xact tx t).2 :=
    congr_shown (f := fun s => v (Procedure.xact tx s).2) (hv.xact tx) h
  have hanswer : (Procedure.xact tx s).1 = (Procedure.xact tx t).1 :=
    congr_shown (f := fun s => (Procedure.xact tx s).1) (hv.answer tx) h
  cases ha : (Procedure.xact tx t).1 with
  | none =>
    rw [xactThen_failed (hanswer.trans ha), xactThen_failed ha]
    exact ⟨rfl, hstate⟩
  | some rx =>
    rw [xactThen_answered (hanswer.trans ha), xactThen_answered ha]
    exact hk rx hstate

omit h in
/-- The loop reads the wait's registers, which have to agree. -/
theorem pollLoop_eq (polls : Nat) {s t : State} (h : v s = v t) (hcnt : s.pollcnt = t.pollcnt) (hlim : s.tlim = t.tlim) :
    SameOutcome v (pollLoop polls s) (pollLoop polls t) := by
  induction polls generalizing s t with
  | zero => exact ⟨rfl, h⟩
  | succ polls ih =>
    rw [pollLoop_succ, pollLoop_succ, hv.cfg_eq h]
    refine hv.xactThen_eq h fun rx hx => ?_
    have hstatus := hv.statusTaken_eq hx rx
    have hexpired : expired (Procedure.xact (frameStatus t.cfg) s).2 =
        expired (Procedure.xact (frameStatus t.cfg) t).2 := by
      rw [Bool.eq_iff_iff]
      simp [expired_iff, hcnt, hlim]
    unfold pollThen
    rw [hexpired]
    split
    · exact ⟨rfl, hstatus⟩
    · split
      · exact ⟨rfl, hstatus⟩
      · refine ih ?_ (by simp [hcnt]) (by simp [hlim])
        have hcount := congr_shown (f := fun s => v { s with pollcnt := t.pollcnt + 1 }) (hv.count _)
          (hv.delayReq_eq hstatus Config.pollDelayMs)
        simpa [paced, hcnt] using hcount

theorem waitReady_eq (l : Millis) : SameOutcome v (waitReady l s) (waitReady l t) :=
  hv.pollLoop_eq _ (congr_shown (f := fun s => v { s with tlim := l, pollcnt := 0 }) (hv.limits l 0) h) rfl rfl

theorem latchThen_eq (rx : List Byte) : SameOutcome v (latchThen rx s) (latchThen rx t) := by
  have hstatus := hv.statusTaken_eq h rx
  unfold latchThen
  rw [hv.cfg_eq h]
  split <;> exact ⟨rfl, hstatus⟩

theorem verifyLatch_eq : SameOutcome v (verifyLatch s) (verifyLatch t) := by
  rw [Procedure.verifyLatch_eq, Procedure.verifyLatch_eq, hv.cfg_eq h]
  exact hv.xactThen_eq h fun rx hx => hv.latchThen_eq hx rx

theorem enableLatch_eq : SameOutcome v (enableLatch s) (enableLatch t) :=
  hv.xactThen_eq h fun rx hx => by
    rw [hv.cfg_eq hx]
    exact (hv.waitReady_eq hx _).onSuccess fun a b hab => hv.verifyLatch_eq hab

theorem writeEnable_eq : SameOutcome v (writeEnable s) (writeEnable t) := by
  rw [Procedure.writeEnable_eq, Procedure.writeEnable_eq, hv.cfg_eq h]
  exact (hv.waitReady_eq h _).onSuccess fun a b hab => hv.enableLatch_eq hab

theorem mutate_eq (tx : List Byte) (l : Millis) : SameOutcome v (mutate tx l s) (mutate tx l t) := by
  rw [Procedure.mutate_eq, Procedure.mutate_eq]
  exact hv.xactThen_eq h fun rx hx => hv.waitReady_eq hx l

theorem reset_eq : SameOutcome v (reset s) (reset t) := by
  rw [Procedure.reset_eq, Procedure.reset_eq]
  refine hv.xactThen_eq h fun rx hx => hv.xactThen_eq (hv.delayReq_eq hx _) fun rx' hx' => ?_
  rw [hv.cfg_eq hx']
  exact hv.waitReady_eq (hv.delayReq_eq hx' _) _

theorem idTaken_eq (rx : List Byte) : SameOutcome v (idTaken rx s) (idTaken rx t) :=
  ⟨rfl, congr_shown (f := fun s => v (idTaken rx s).2) (hv.ident rx) h⟩

theorem readJedecID_eq : SameOutcome v (readJedecID s) (readJedecID t) := by
  rw [Procedure.readJedecID_eq, Procedure.readJedecID_eq, hv.cfg_eq h]
  exact hv.xactThen_eq h fun rx hx => hv.idTaken_eq hx rx

theorem eraseThen_eq (ha : ShowsAddr v) : SameOutcome v (eraseThen s) (eraseThen t) := by
  rw [eraseThen, hv.cfg_eq h, congr_shown ha h]
  exact hv.mutate_eq h _ _

theorem sectorErase_eq (ha : ShowsAddr v) : SameOutcome v (sectorErase s) (sectorErase t) := by
  rw [Procedure.sectorErase_eq, Procedure.sectorErase_eq]
  exact (hv.writeEnable_eq h).onSuccess fun a b hab => hv.eraseThen_eq hab ha

theorem programThen_eq (ha : ShowsAddr v) (hl : ShowsLen v) (hd : ShowsTxd v) :
    SameOutcome v (programThen s) (programThen t) := by
  rw [programThen, payload, hv.cfg_eq h, congr_shown ha h, congr_shown hl h, congr_shown hd h]
  exact hv.mutate_eq h _ _

theorem tooLong_eq (hl : ShowsLen v) : tooLong s.cfg s.len = tooLong t.cfg t.len := by
  rw [hv.cfg_eq h, congr_shown hl h]

theorem pageProgram_eq (ha : ShowsAddr v) (hl : ShowsLen v) (hd : ShowsTxd v) :
    SameOutcome v (pageProgram s) (pageProgram t) := by
  have hlong := hv.tooLong_eq h hl
  cases htl : tooLong t.cfg t.len with
  | true =>
    rw [pageProgram_tooLong (hlong.trans htl), pageProgram_tooLong htl]
    exact ⟨rfl, h⟩
  | false =>
    rw [Procedure.pageProgram_eq (hlong.trans htl), Procedure.pageProgram_eq htl]
    exact (hv.writeEnable_eq h).onSuccess fun a b hab => hv.programThen_eq hab ha hl hd

theorem dataTaken_eq (rx : List Byte) : SameOutcome v (dataTaken rx s) (dataTaken rx t) :=
  ⟨rfl, congr_shown (f := fun s => v (dataTaken rx s).2) (hv.data rx) h⟩

theorem checkThen_eq (ha : ShowsAddr v) (hl : ShowsLen v) (rx : List Byte) :
    SameOutcome v (checkThen rx s) (checkThen rx t) := by
  have hstatus := hv.statusTaken_eq h rx
  unfold checkThen
  rw [hv.cfg_eq h, congr_shown ha h, congr_shown hl h]
  split
  · exact ⟨rfl, hstatus⟩
  · exact hv.xactThen_eq hstatus fun rx' hx' => hv.dataTaken_eq hx' rx'

theorem read_eq (ha : ShowsAddr v) (hl : ShowsLen v) : SameOutcome v (read s) (read t) := by
  have hlong := hv.tooLong_eq h hl
  cases htl : tooLong t.cfg t.len with
  | true =>
    rw [read_tooLong (hlong.trans htl), read_tooLong htl]
    exact ⟨rfl, h⟩
  | false =>
    rw [Procedure.read_eq (hlong.trans htl), Procedure.read_eq htl, hv.cfg_eq h]
    exact hv.xactThen_eq h fun rx hx => hv.checkThen_eq hx ha hl rx

end Blind

/-! ### What the procedures leave alone -/

/-- A view of the state that no move of a procedure touches, the outputs apart. -/
structure Kept {α : Type} (f : State → α) : Prop where
  xact : ∀ tx s, f (xact tx s).2 = f s
  status : ∀ rx s, f (statusTaken rx s) = f s
  delay : ∀ n s, f (delayReq n s) = f s
  limits : ∀ l c s, f { s with tlim := l, pollcnt := c } = f s
  count : ∀ c s, f { s with pollcnt := c } = f s

namespace Kept

variable {α : Type} {f : State → α} (hf : Kept f)
include hf

theorem xactThen {tx : List Byte} {go : List Byte → State → Result × State} (hgo : ∀ rx t, f (go rx t).2 = f t)
    (s : State) : f (Procedure.xactThen tx go s).2 = f s := by
  cases h : (Procedure.xact tx s).1 with
  | none => rw [xactThen_failed h]; exact hf.xact tx s
  | some rx => rw [xactThen_answered h, hgo]; exact hf.xact tx s

omit hf in
theorem onSuccess {p : Result × State} {go : State → Result × State} {a : α} (hp : f p.2 = a)
    (hgo : ∀ t, f (go t).2 = f t) : f (onSuccess p go).2 = a := by
  obtain ⟨r, t⟩ := p
  cases r
  case success => exact (hgo t).trans hp
  all_goals exact hp

theorem pollLoop (polls : Nat) (s : State) : f (pollLoop polls s).2 = f s := by
  induction polls generalizing s with
  | zero => rfl
  | succ polls ih =>
    rw [pollLoop_succ]
    refine hf.xactThen (fun rx t => ?_) s
    unfold pollThen
    split
    · exact hf.status rx t
    · split
      · exact hf.status rx t
      · rw [ih, paced, hf.count, hf.delay, hf.status]

theorem waitReady (l : Millis) (s : State) : f (waitReady l s).2 = f s :=
  (hf.pollLoop _ _).trans (hf.limits l 0 s)

theorem verifyLatch (s : State) : f (verifyLatch s).2 = f s := by
  rw [verifyLatch_eq]
  refine hf.xactThen (fun rx t => ?_) s
  unfold latchThen
  split <;> exact hf.status rx t

theorem enableLatch (s : State) : f (enableLatch s).2 = f s :=
  hf.xactThen (fun _ t => onSuccess (hf.waitReady _ t) hf.verifyLatch) s

theorem writeEnable (s : State) : f (writeEnable s).2 = f s := by
  rw [writeEnable_eq]
  exact onSuccess (hf.waitReady _ s) hf.enableLatch

theorem mutate (tx : List Byte) (l : Millis) (s : State) : f (mutate tx l s).2 = f s := by
  rw [mutate_eq]
  exact hf.xactThen (fun _ t => hf.waitReady l t) s

theorem sectorErase (s : State) : f (sectorErase s).2 = f s := by
  rw [sectorErase_eq]
  exact onSuccess (hf.writeEnable s) fun t => hf.mutate _ _ t

theorem pageProgram (s : State) : f (pageProgram s).2 = f s := by
  cases hl : tooLong s.cfg s.len with
  | true => rw [pageProgram_tooLong hl]
  | false =>
    rw [pageProgram_eq hl]
    exact onSuccess (hf.writeEnable s) fun t => hf.mutate _ _ t

theorem reset (s : State) : f (reset s).2 = f s := by
  rw [reset_eq]
  refine hf.xactThen (fun _ t => ?_) s
  exact (hf.xactThen (fun _ u => (hf.waitReady _ _).trans (hf.delay _ u)) _).trans (hf.delay _ t)

theorem readJedecID (hid : ∀ rx s, f (idTaken rx s).2 = f s) (s : State) : f (readJedecID s).2 = f s := by
  rw [readJedecID_eq]
  exact hf.xactThen hid s

theorem read (hdata : ∀ rx s, f (dataTaken rx s).2 = f s) (s : State) : f (read s).2 = f s := by
  cases hl : tooLong s.cfg s.len with
  | true => rw [read_tooLong hl]
  | false =>
    rw [read_eq hl]
    refine hf.xactThen (fun rx t => ?_) s
    unfold checkThen
    split
    · exact hf.status rx t
    · exact (hf.xactThen hdata _).trans (hf.status rx t)

/-- Every operation's procedure, where the outputs are not looked at. -/
theorem procedureOf (hid : ∀ rx s, f (idTaken rx s).2 = f s) (hdata : ∀ rx s, f (dataTaken rx s).2 = f s)
    (i : Instr) (s : State) : f (procedureOf i s).2 = f s := by
  unfold Procedure.procedureOf
  split
  · exact hf.readJedecID hid s
  · exact hf.writeEnable s
  · exact hf.sectorErase s
  · exact hf.pageProgram s
  · exact hf.read hdata s
  · exact hf.reset s

end Kept

theorem kept_cfg : Kept State.cfg :=
  ⟨fun _ _ => rfl, fun _ _ => rfl, fun _ _ => rfl, fun _ _ _ => rfl, fun _ _ => rfl⟩

theorem kept_operands : Kept fun s => (s.op, s.len) :=
  ⟨fun _ _ => rfl, fun _ _ => rfl, fun _ _ => rfl, fun _ _ _ => rfl, fun _ _ => rfl⟩

/-! ### The outputs are the last answer's bytes -/

theorem xact_trace {tx rx : List Byte} {s : State} (h : (xact tx s).1 = some rx) :
    (xact tx s).2.trace = s.trace ++ [.sel] ++ [.xchg tx (some rx), .desel] := by
  rw [← h]
  simp [xact]

/-- The trace ends in a completed exchange with these bytes. -/
def EndsInAnswer (rx : List Byte) (s : State) : Prop :=
  ∃ pre tx, s.trace = pre ++ [.xchg tx (some rx), .desel]

theorem EndsInAnswer.unique {rx rx' : List Byte} {s t : State} (h : EndsInAnswer rx s) (h' : EndsInAnswer rx' t)
    (ht : s.trace = t.trace) : rx = rx' := by
  obtain ⟨pre, tx, h⟩ := h
  obtain ⟨pre', tx', h'⟩ := h'
  have heq := (List.append_inj' (h.symm.trans (ht.trans h')) rfl).2
  simp only [List.cons.injEq, Event.xchg.injEq, Option.some.injEq] at heq
  exact heq.1.2

theorem readJedecID_output {s : State} (h : (readJedecID s).1 = .success) :
    ∃ rx, EndsInAnswer rx (readJedecID s).2 ∧
      ((readJedecID s).2.id0, (readJedecID s).2.id1, (readJedecID s).2.id2) =
        (rxByte rx 1, rxByte rx 2, rxByte rx 3) := by
  rw [readJedecID_eq] at h ⊢
  cases ha : (xact (frameId s.cfg) s).1 with
  | none => rw [xactThen_failed ha] at h; cases h
  | some rx =>
    rw [xactThen_answered ha]
    exact ⟨rx, ⟨_, _, xact_trace ha⟩, rfl⟩

theorem read_output {s : State} (h : (read s).1 = .success) (hwf : s.rxd.wf) :
    ∃ rx, EndsInAnswer rx (read s).2 ∧ Memory.readBytes (read s).2.rxd 0 s.len.toNat = rxData rx s.len.toNat := by
  cases hl : tooLong s.cfg s.len with
  | true => rw [read_tooLong hl] at h; cases h
  | false =>
    rw [read_eq hl] at h ⊢
    cases ha : (xact (frameStatus s.cfg) s).1 with
    | none => rw [xactThen_failed ha] at h; cases h
    | some rx =>
      rw [xactThen_answered ha, checkThen] at h ⊢
      split at h
      · cases h
      · rename_i hbusy
        rw [if_neg hbusy]
        generalize ht : statusTaken rx (xact (frameStatus s.cfg) s).2 = t at h ⊢
        have hrxd : t.rxd = s.rxd := by rw [← ht]; rfl
        have hlen : t.len = s.len := by rw [← ht]; rfl
        cases ha' : (xact (frameRead (xact (frameStatus s.cfg) s).2.cfg (xact (frameStatus s.cfg) s).2.addr
            (xact (frameStatus s.cfg) s).2.len.toNat) t).1 with
        | none => rw [xactThen_failed ha'] at h; cases h
        | some rx' =>
          rw [xactThen_answered ha']
          refine ⟨rx', ⟨_, _, xact_trace ha'⟩, ?_⟩
          have hback := Memory.readBytes_writeBytes hwf 0 (rxData rx' s.len.toNat)
          simpa [dataTaken, xact, hrxd, hlen, rxData] using hback

/-! ### Nothing is held between operations -/

/-- The operations with an address, and with a length (R25, R26). -/
def usesAddr : Instr → Bool
  | .sectorErase _ | .pageProgram _ _ | .read _ _ => true
  | _ => false

def usesLen : Instr → Bool
  | .pageProgram _ _ | .read _ _ => true
  | _ => false

/-- The state with the sequencer's own registers forgotten, but for the operands the operation latched. -/
def surroundings (keepAddr keepLen : Bool) (s : State) : State :=
  { State.reset with
    cfg := s.cfg, op := s.op, addr := if keepAddr then s.addr else 0, len := if keepLen then s.len else 0
    txd := s.txd, trace := s.trace, transport := s.transport, port := s.port, resetLine := s.resetLine
    linkHung := s.linkHung }

theorem surroundings_blind (keepAddr keepLen : Bool) : Blind (surroundings keepAddr keepLen) := by
  cases keepAddr <;> cases keepLen <;>
    exact ⟨fun _ => rfl, fun _ _ => rfl, fun _ _ => rfl, fun _ _ => rfl, fun _ _ => rfl, fun _ _ _ => rfl,
      fun _ _ => rfl, fun _ _ => rfl, fun _ _ => rfl⟩

variable {s t u w : State} {i : Instr}

theorem surroundings_latched (hi : isOperation i = true) (h : SameSurroundings s t) :
    surroundings (usesAddr i) (usesLen i) (latched i s) = surroundings (usesAddr i) (usesLen i) (latched i t) := by
  obtain ⟨hcfg, htxd, htrace, htransport, hport, hreset, hhung⟩ := h
  cases i
  case reset | readJedecID | writeEnable | sectorErase | pageProgram | read =>
    simp [surroundings, latched, usesAddr, usesLen, opOf, *]
  all_goals cases hi

/-- No operation looks at anything but its surroundings and its operands. -/
theorem procedureOf_same (hi : isOperation i = true) (h : SameSurroundings s t) :
    SameOutcome (surroundings (usesAddr i) (usesLen i)) (procedureOf i (latched i s)) (procedureOf i (latched i t)) := by
  have hv := surroundings_blind (usesAddr i) (usesLen i)
  have h := surroundings_latched hi h
  cases i
  case reset => exact hv.reset_eq h
  case readJedecID => exact hv.readJedecID_eq h
  case writeEnable => exact hv.writeEnable_eq h
  case sectorErase => exact hv.sectorErase_eq h fun _ => rfl
  case pageProgram => exact hv.pageProgram_eq h (fun _ => rfl) (fun _ => rfl) fun _ => rfl
  case read => exact hv.read_eq h (fun _ => rfl) fun _ => rfl
  all_goals cases hi

theorem surroundings_shows {a l : Bool} {s t : State} (h : surroundings a l s = surroundings a l t) :
    s.trace = t.trace ∧ s.transport = t.transport ∧ s.op = t.op :=
  ⟨(congrArg State.trace h :), (congrArg State.transport h :), (congrArg State.op h :)⟩

theorem latched_op (i : Instr) (s : State) : (latched i s).op = opOf i := by
  cases i <;> rfl

theorem eq_readJedecID_of_opOf (hi : isOperation i = true) (h : opOf i = hostReadJedecID) : i = .readJedecID := by
  cases i
  case readJedecID => rfl
  case reset | writeEnable | sectorErase | pageProgram | read =>
    simp [opOf, hostReset, hostReadJedecID, hostWriteEnable, hostSectorErase, hostPageProgram, hostRead] at h
  all_goals cases hi

theorem eq_read_of_opOf (hi : isOperation i = true) (h : opOf i = hostRead) : ∃ a n, i = .read a n := by
  cases i
  case read a n => exact ⟨a, n, rfl⟩
  case reset | writeEnable | sectorErase | pageProgram | readJedecID =>
    simp [opOf, hostReset, hostReadJedecID, hostWriteEnable, hostSectorErase, hostPageProgram, hostRead] at h
  all_goals cases hi

theorem succeeded_eq_true {op : BitVec 3} : succeeded op s = true ↔ s.done = true ∧ s.result = .success ∧ s.op = op := by
  simp only [succeeded, Bool.and_eq_true, decide_eq_true_eq, and_assoc]

/-- A valid output belongs to the operation that ended with `Success`. -/
theorem succeeded_iff {op : BitVec 3} :
    succeeded op (endOp (procedureOf i (latched i s)).1 (procedureOf i (latched i s)).2) = true ↔
      (procedureOf i (latched i s)).1 = .success ∧ (latched i s).op = op := by
  have hop : (procedureOf i (latched i s)).2.op = (latched i s).op :=
    congrArg Prod.fst (kept_operands.procedureOf (fun _ _ => rfl) (fun _ _ => rfl) i (latched i s))
  simp [succeeded_eq_true, hop]

/-- Settles O52: `procedureOf_same` for the trace and the result, and the outputs are bytes of the last answer in it. -/
theorem noInformationBetweenOperations : Obligations.NoInformationBetweenOperations := by
  intro i s t u w h hs ht hu hw
  have hi := isOperation_of_operation hu
  rw [operation_eq hi] at hu hw
  obtain rfl := Option.some.inj hu
  obtain rfl := Option.some.inj hw
  obtain ⟨hresult, hstate⟩ := procedureOf_same hi h
  obtain ⟨htrace, htransport, hop⟩ := surroundings_shows hstate
  have hlast (op : BitVec 3) : succeeded op (endOp (procedureOf i (latched i s)).1 (procedureOf i (latched i s)).2) =
      succeeded op (endOp (procedureOf i (latched i t)).1 (procedureOf i (latched i t)).2) := by
    rw [Bool.eq_iff_iff]
    simp [succeeded_eq_true, hresult, hop]
  refine ⟨htrace, htransport, by simp [resultOut, hresult], ?ident, ?data⟩
  case ident =>
    unfold idOut
    rw [hlast]
    split
    · rename_i hok
      obtain ⟨hsuccess, hopt⟩ := succeeded_iff.mp hok
      obtain rfl := eq_readJedecID_of_opOf hi ((latched_op i t).symm.trans hopt)
      obtain ⟨rx, hrx, hid⟩ := readJedecID_output (hresult.trans hsuccess)
      obtain ⟨rx', hrx', hid'⟩ := readJedecID_output hsuccess
      obtain rfl := hrx.unique hrx' htrace
      exact congrArg some (hid.trans hid'.symm)
    · rfl
  case data =>
    unfold rxdOut
    rw [hlast]
    split
    · rename_i hok
      obtain ⟨hsuccess, hopt⟩ := succeeded_iff.mp hok
      obtain ⟨a, n, rfl⟩ := eq_read_of_opOf hi ((latched_op i t).symm.trans hopt)
      obtain ⟨rx, hrx, hdata⟩ := read_output (s := latched (.read a n) s) (hresult.trans hsuccess) hs
      obtain ⟨rx', hrx', hdata'⟩ := read_output (s := latched (.read a n) t) hsuccess ht
      obtain rfl := hrx.unique hrx' htrace
      have hlen (x : State) : (procedureOf (.read a n) (latched (.read a n) x)).2.len = n :=
        congrArg Prod.snd (kept_operands.read (fun _ _ => rfl) (latched (.read a n) x))
      simp only [endOp_rxd, endOp_len, hlen]
      exact congrArg some (hdata.trans hdata'.symm)
    · rfl

end Sys2Proof.Machine.Procedure
end

section
/-! The phase machine runs the procedures (43_sequencer_fsm.md section 1). `Ends n s p` says that the run from `s` reaches
within `n` steps the end that a procedure's outcome `p` gives; each phase's lemma is about the machine that has just
entered it, and takes what comes after the phase as a hypothesis. -/

namespace Sys2Proof.Machine

open Procedure

variable {s t u : State} {i : Instr} {r : Result} {m : Main} {n : Nat} {p q : Result × State}

/-! ### The procedures do not look at `STATE` -/

/-- The state but for `STATE` and the end that is due: what the machine and its procedure share. -/
def withoutState (s : State) : State := { s with main := .idle, poll := .none, xp := .none, ending := none }

theorem withoutState_blind : Blind withoutState :=
  ⟨fun _ => rfl, fun _ _ => rfl, fun _ _ => rfl, fun _ _ => rfl, fun _ _ => rfl, fun _ _ _ => rfl, fun _ _ => rfl,
    fun _ _ => rfl, fun _ _ => rfl⟩

/-- A procedure whose outcome does not depend on `STATE`. -/
def StateBlind (k : State → Result × State) : Prop :=
  ∀ a b, withoutState a = withoutState b → SameOutcome withoutState (k a) (k b)

theorem StateBlind.onSuccess {f g : State → Result × State} (hf : StateBlind f) (hg : StateBlind g) :
    StateBlind fun t => onSuccess (f t) g := fun a b hab => (hf a b hab).onSuccess hg

theorem stateBlind_pure : StateBlind fun t => (.success, t) := fun _ _ hab => ⟨rfl, hab⟩

/-! ### Reaching the end -/

/-- Within `n` steps the machine is where an operation with this outcome has ended. -/
def Ends (n : Nat) (s : State) (p : Result × State) : Prop := ∃ k ≤ n, steps k s = .next (endOp p.1 p.2)

theorem Ends.mono {n' : Nat} (h : Ends n s p) (hn : n ≤ n') : Ends n' s p := by
  obtain ⟨k, hk, hsteps⟩ := h
  exact ⟨k, hk.trans hn, hsteps⟩

theorem Ends.of_steps {k : Nat} (h : steps k s = .next t) (ht : Ends n t p) : Ends (k + n) s p := by
  obtain ⟨j, hj, hsteps⟩ := ht
  exact ⟨k + j, by omega, steps_trans h hsteps⟩

/-- The end writes over `STATE`. -/
theorem Ends.congr (h : Ends n s p) (hpq : SameOutcome withoutState p q) : Ends n s q := by
  obtain ⟨k, hk, hsteps⟩ := h
  obtain ⟨hr, hstate⟩ := hpq
  have hend : endOp p.1 p.2 = endOp q.1 q.2 := by
    rw [hr]
    exact congr_shown (v := withoutState) (f := endOp q.1) (fun _ => rfl) hstate
  exact ⟨k, hk, hend ▸ hsteps⟩

/-- What no move of the procedures writes and the phases rely on: the inputs, the operation with its operands, and that
no end is due. -/
def fixed (s : State) : Cfg × (BitVec 3 × Addr × Len × Memory) × Bool × Bool × Option Result :=
  (s.cfg, (s.op, s.addr, s.len, s.txd), s.resetLine, s.linkHung, s.ending)

theorem fixed_enter (m : Main) (s : State) : fixed (enter m s) = fixed s := by simp [fixed]

theorem fixed_xact (tx : List Byte) (s : State) : fixed (xact tx s).2 = fixed s := rfl

theorem xact_main (tx : List Byte) (s : State) : (xact tx s).2.main = s.main := rfl

/-- Nothing disturbs the machine and no end is due. -/
def Steady (s : State) : Prop := Undisturbed s ∧ s.ending = none

theorem steady_congr (h : fixed t = fixed s) (hs : Steady s) : Steady t := by
  simp only [fixed, Prod.mk.injEq] at h
  obtain ⟨-, -, hr, hh, he⟩ := h
  simpa [Steady, Undisturbed, hr, hh, he] using hs

/-- An end that has come to be due is one step away. -/
theorem Steady.ends_due (hs : Steady s) (hm : s.main ≠ .idle) (hd : isDelay s.main = false) (hn : 1 ≤ n) :
    Ends n (endDue r s) (r, s) :=
  ⟨1, hn, (steps_one _).trans (step_endDue r hs.1.1 hm hd)⟩

/-! ### A transaction -/

/-- From the `Sel()` of a command on: its three steps, and then the end after a failure or what its report leads to. -/
theorem Active.ends {k : List Byte → State → Result × State} (h : Active i s) (hx : s.xp = .sel) (hn : 1 ≤ n)
    (hk : ∀ rx, Ends n (goOf i rx (xact (frameOf s.cfg i) s).2) (k rx (xact (frameOf s.cfg i) s).2)) :
    Ends (3 + n) s (xactThen (frameOf s.cfg i) k s) := by
  obtain ⟨⟨he, -⟩, hne, -, hm⟩ := phaseCommand_spec h.phase h.command
  have hd := not_isDelay_of_active h.phase hne
  have hs := steady_congr (fixed_xact (frameOf s.cfg i) s) ⟨h.undisturbed, he⟩
  have hmain := xact_main (frameOf s.cfg i) s
  have hsteps := h.steps_xact hx
  cases ha : (xact (frameOf s.cfg i) s).1 with
  | none =>
    rw [ha, orTransportError_none] at hsteps
    rw [xactThen_failed ha]
    exact .of_steps hsteps (hs.ends_due (by rwa [hmain]) (by rwa [hmain]) hn)
  | some rx =>
    rw [ha, orTransportError_some] at hsteps
    rw [xactThen_answered ha]
    exact .of_steps hsteps (hk rx)

theorem enter_eq_of_not_wait (hw : isWait m = false) : withoutState (enter m s) = withoutState s := by
  cases m <;> first | rfl | cases hw

theorem phaseOf_ne_idle_of_command (hc : phaseCommand (enter m s) = some i) : m ≠ .idle ∧ isDelay m = false := by
  constructor
  · rintro rfl
    simp [phaseCommand] at hc
  · cases m <;> simp_all [phaseCommand, isDelay]

theorem Steady.active_enter (hs : Steady s) (hop : phaseOf s.op m) (hc : phaseCommand (enter m s) = some i)
    (hfits : (frameOf s.cfg i).length ≤ s.cfg.pageSize + 4) : Active i (enter m s) :=
  ⟨by simpa [Undisturbed] using hs.1, (phaseOk_enter (phaseOf_ne_idle_of_command hc).1 hs.2 hop).1, hc,
    by simpa using hfits⟩

/-- A phase that emits a frame is entered at its `Sel()`. -/
theorem enter_xp_of_frame (hc : phaseCommand (enter m s) = some i) : (enter m s).xp = .sel := by
  have hd := (phaseOf_ne_idle_of_command hc).2
  cases m <;> first | rfl | cases hd

/-- A phase that emits one frame and is no wait. -/
theorem Steady.ends_frame {k : List Byte → State → Result × State} (hs : Steady s) (hw : isWait m = false)
    (hop : phaseOf s.op m) (hc : phaseCommand (enter m s) = some i)
    (hfits : (frameOf s.cfg i).length ≤ s.cfg.pageSize + 4) (hn : 1 ≤ n) (hblind : ∀ rx, StateBlind (k rx))
    (hk : ∀ rx u, fixed u = fixed s → u.main = m → Ends n (goOf i rx u) (k rx u)) :
    Ends (3 + n) (enter m s) (xactThen (frameOf s.cfg i) k s) := by
  have h := (hs.active_enter hop hc hfits).ends (enter_xp_of_frame hc) hn fun rx =>
    hk rx _ ((fixed_xact _ _).trans (fixed_enter m s))
    ((xact_main _ _).trans (enter_main m s))
  rw [enter_cfg] at h
  exact h.congr (withoutState_blind.xactThen_eq (enter_eq_of_not_wait hw) fun rx hab => hblind rx _ _ hab)

/-! ### A wait -/

theorem phaseOk_polling (hw : isWait s.main = true) (he : s.ending = none)
    (h : (s.poll = .read ∧ s.xp = .sel) ∨ (s.poll = .delay ∧ s.xp = .none)) : phaseOk s = true := by
  cases hm : s.main <;> simp [hm, isWait] at hw <;>
    rcases h with ⟨hp, hx⟩ | ⟨hp, hx⟩ <;> simp [phaseOk, tripleOk, hm, isDelay, isWait, hp, hx, he]

theorem phaseCommand_polling (hw : isWait s.main = true) (he : s.ending = none) (hp : s.poll = .read) :
    phaseCommand s = some .rdsr := by
  cases hm : s.main <;> simp [hm, isWait] at hw <;> simp [phaseCommand, hm, hp, he]

/-- The state in which the delay of a wait is next (R194). -/
def pacing (s : State) : State := { s with poll := .delay, xp := .none }

theorem step_pacing (hs : Steady s) (hw : isWait s.main = true) :
    step (pacing s) = .next (nextPoll (delayReq 1 (pacing s))) :=
  (step_pace (s := pacing s) hs.1.1 (phaseOk_polling (s := pacing s) hw hs.2 (.inr ⟨rfl, rfl⟩)) hw rfl).trans
    (delayStep_runs hs.1.2)

/-- What a poll leads to: the machine's state and the procedure's outcome, from the same status (R144). -/
inductive PollOutcome (polls : Nat) (s : State) : State → Result × State → Prop where
  | ready : PollOutcome polls s (waitReported .success s) (.success, s)
  | timeout : PollOutcome polls s (endDue .timeout s) (.timeout, s)
  | pace : s.pollcnt < s.tlim → PollOutcome polls s (pacing s) (pollLoop polls (paced s))

theorem pollOutcome (polls : Nat) (rx : List Byte) (s : State) :
    PollOutcome polls (statusTaken rx s) (polled (statusTaken rx s)) (pollThen polls rx s) := by
  have hstatus : (statusTaken rx s).status = rxStatus rx := rfl
  have hexpired : expired (statusTaken rx s) = expired s := rfl
  unfold polled pollThen
  rw [hstatus, hexpired]
  split
  · exact .ready
  · split
    · exact .timeout
    · rename_i h
      exact .pace (by simpa [expired_iff] using h)

theorem goOf_rdsr_of_isWait (rx : List Byte) (hw : isWait s.main = true) :
    goOf .rdsr rx s = polled (statusTaken rx s) := by
  obtain ⟨hverify, hcheck⟩ := not_verify_of_isWait hw
  exact statusRead_poll rx hverify hcheck

theorem not_isDelay_of_isWait (hw : isWait m = true) : isDelay m = false := by
  cases m <;> first | rfl | cases hw

/-- The machine polling is the loop of `WaitReady`: three steps for each poll and one for each delay (R144, R194). -/
theorem Steady.ends_pollLoop {k : State → Result × State} (polls : Nat) (hs : Steady s) (hw : isWait s.main = true)
    (hp : s.poll = .read) (hx : s.xp = .sel) (hpolls : s.tlim.toNat - s.pollcnt.toNat < polls) (hn : 1 ≤ n)
    (hblind : StateBlind k)
    (hk : ∀ u, fixed u = fixed s → u.main = s.main → Ends n (waitReported .success u) (k u)) :
    Ends (3 + (4 * (s.tlim.toNat - s.pollcnt.toNat) + n)) s (onSuccess (pollLoop polls s) k) := by
  induction polls generalizing s with
  | zero => omega
  | succ polls ih =>
    have hactive : Active .rdsr s := ⟨hs.1, phaseOk_polling hw hs.2 (.inl ⟨hp, hx⟩), phaseCommand_polling hw hs.2 hp,
      by simp [frameOf]⟩
    rw [pollLoop_succ, onSuccess_xactThen]
    refine hactive.ends hx (by omega) fun rx => ?_
    have hmain := xact_main (frameOf s.cfg .rdsr) s
    have hfixed := fixed_xact (frameOf s.cfg .rdsr) s
    have htlim := xact_tlim (frameOf s.cfg .rdsr) s
    have hcnt := xact_pollcnt (frameOf s.cfg .rdsr) s
    generalize (xact (frameOf s.cfg .rdsr) s).2 = t at hmain hfixed htlim hcnt ⊢
    have hout := pollOutcome polls rx t
    rw [goOf_rdsr_of_isWait rx (by rwa [hmain])]
    replace hmain : (statusTaken rx t).main = s.main := hmain
    replace hfixed : fixed (statusTaken rx t) = fixed s := hfixed
    rw [← statusTaken_tlim rx] at htlim
    rw [← statusTaken_pollcnt rx] at hcnt
    generalize pollThen polls rx t = outcome at hout ⊢
    generalize statusTaken rx t = u at hmain hfixed htlim hcnt hout ⊢
    generalize polled u = next at hout ⊢
    have hu := steady_congr hfixed hs
    have huw : isWait u.main = true := by rwa [hmain]
    cases hout with
    | ready => exact (hk u hfixed hmain).mono (Nat.le_add_left _ _)
    | timeout =>
      exact hu.ends_due (by rintro h; simp [h, isWait] at huw) (not_isDelay_of_isWait huw) (by omega)
    | pace hlt =>
      have hlast : u.tlim.toNat - (u.pollcnt + 1).toNat + 1 = u.tlim.toNat - u.pollcnt.toNat := by bv_omega
      rw [htlim, hcnt] at hlast
      have hnext := ih (s := nextPoll (delayReq 1 (pacing u))) hu huw rfl rfl
        (by simp only [nextPoll_tlim, delayReq_tlim, nextPoll_pollcnt, delayReq_pollcnt, pacing, htlim, hcnt]; omega)
        fun w hw hwm => hk w (hw.trans hfixed) (hwm.trans hmain)
      have hsame : SameOutcome withoutState (onSuccess (pollLoop polls (nextPoll (delayReq 1 (pacing u)))) k)
          (onSuccess (pollLoop polls (paced u)) k) :=
        (withoutState_blind.pollLoop_eq (s := nextPoll (delayReq 1 (pacing u))) (t := paced u) polls rfl rfl rfl).onSuccess
          hblind
      refine ((Ends.of_steps ((steps_one _).trans (step_pacing hu huw)) hnext).congr hsame).mono ?_
      simp only [nextPoll_tlim, delayReq_tlim, nextPoll_pollcnt, delayReq_pollcnt, pacing, htlim, hcnt]
      omega

/-- A wait phase from its entry is `WaitReady` with its limit (R192). -/
theorem Steady.ends_wait {k : State → Result × State} {l : Millis} (hs : Steady s) (hl : waitLimit s.cfg m = some l)
    (hn : 1 ≤ n) (hblind : StateBlind k)
    (hk : ∀ u, fixed u = fixed s → u.main = m → Ends n (waitReported .success u) (k u)) :
    Ends (3 + (4 * l.toNat + n)) (enter m s) (onSuccess (waitReady l s) k) := by
  have hw : isWait m = true := (isWait_iff (c := s.cfg)).mpr ⟨l, hl⟩
  rw [enter_wait hl]
  have hloop := Steady.ends_pollLoop (s := { s with main := m, tlim := l, pollcnt := 0, poll := .read, xp := .sel })
    (l.toNat + 1) hs hw rfl rfl (by simp) hn hblind hk
  have hsame := withoutState_blind.pollLoop_eq
    (s := { s with main := m, tlim := l, pollcnt := 0, poll := .read, xp := .sel })
    (t := { s with tlim := l, pollcnt := 0 }) (l.toNat + 1) rfl rfl rfl
  exact (hloop.mono (by simp)).congr (hsame.onSuccess hblind)

end Sys2Proof.Machine
end

section
/-! The phases of each operation, one after the other, run its procedure (42_operations.md, R192). -/

namespace Sys2Proof.Machine

open Procedure

variable {s t u : State} {i : Instr} {r : Result} {m : Main} {n : Nat}

/-! ### What the phases rely on is kept -/

theorem cfg_of_fixed (h : fixed u = fixed s) : u.cfg = s.cfg := congrArg Prod.fst h

theorem operands_of_fixed (h : fixed u = fixed s) : (u.op, u.addr, u.len, u.txd) = (s.op, s.addr, s.len, s.txd) :=
  congrArg (fun x => x.2.1) h

theorem op_of_fixed (h : fixed u = fixed s) : u.op = s.op := congrArg Prod.fst (operands_of_fixed h)

theorem len_of_fixed (h : fixed u = fixed s) : u.len = s.len := congrArg (fun x => x.2.2.1) (operands_of_fixed h)

theorem stateBlind_waitReady (l : Millis) : StateBlind (waitReady l) :=
  fun _ _ hab => withoutState_blind.waitReady_eq hab l

theorem stateBlind_verifyLatch : StateBlind verifyLatch := fun _ _ hab => withoutState_blind.verifyLatch_eq hab

theorem stateBlind_eraseThen : StateBlind eraseThen := fun _ _ hab => withoutState_blind.eraseThen_eq hab fun _ => rfl

theorem stateBlind_programThen : StateBlind programThen :=
  fun _ _ hab => withoutState_blind.programThen_eq hab (fun _ => rfl) (fun _ => rfl) fun _ => rfl

/-! ### Mutating frames and their waits -/

/-- The last wait of an operation. -/
theorem Steady.ends_lastWait {l : Millis} (hs : Steady s) (hl : waitLimit s.cfg m = some l) (h₁ : m ≠ .weWait1)
    (h₂ : m ≠ .weWait2) : Ends (4 * l.toNat + 4) (enter m s) (waitReady l s) := by
  have hw : isWait m = true := (isWait_iff (c := s.cfg)).mpr ⟨l, hl⟩
  have h := hs.ends_wait (n := 1) hl le_rfl stateBlind_pure fun u hu hm => by
    have hsuccess : waitReported .success u = endDue .success u := by
      cases m <;> simp_all [waitReported, isWait]
    rw [hsuccess]
    exact (steady_congr hu hs).ends_due (by rintro h; simp [← hm, h, isWait] at hw)
      (by rw [hm]; exact not_isDelay_of_isWait hw) le_rfl
  rw [onSuccess_pure] at h
  exact h.mono (by omega)

theorem Steady.ends_eraseThen (hs : Steady s) (hop : s.op = 3) :
    Ends (4 * s.cfg.toErase.toNat + 7) (enter .erCmd s) (eraseThen s) := by
  rw [eraseThen, mutate_eq]
  have hc : phaseCommand (enter .erCmd s) = some (.se s.addr) := by
    simp [phaseCommand, hs.2]
  have h := hs.ends_frame (m := .erCmd) (i := .se s.addr) (n := 4 * s.cfg.toErase.toNat + 4) rfl hop hc
    (by simp [frameOf]) (by omega) (fun _ => stateBlind_waitReady s.cfg.toErase)
    fun rx u hu _ => (steady_congr hu hs).ends_lastWait (m := .erWait) (by rw [cfg_of_fixed hu]; rfl) nofun nofun
  exact h.mono (by omega)

theorem Steady.ends_programThen (hs : Steady s) (hop : s.op = 4) (hlen : s.len.toNat ≤ s.cfg.pageSize) :
    Ends (4 * s.cfg.toProg.toNat + 7) (enter .ppCmd s) (programThen s) := by
  rw [programThen, mutate_eq]
  have hc : phaseCommand (enter .ppCmd s) = some (.pp s.addr (payload s)) := by
    simp [phaseCommand, hs.2, payload]
  have h := hs.ends_frame (m := .ppCmd) (i := .pp s.addr (payload s)) (n := 4 * s.cfg.toProg.toNat + 4) rfl
    hop hc (by simpa [frameOf, payload] using hlen) (by omega) (fun _ => stateBlind_waitReady s.cfg.toProg)
    fun rx u hu _ => (steady_congr hu hs).ends_lastWait (m := .ppWait) (by rw [cfg_of_fixed hu]; rfl) nofun nofun
  exact h.mono (by omega)

/-! ### The handshake (R147) -/

/-- The continuation on `OP` once the latch was seen set (R195). -/
def enabledNext (s : State) : State :=
  if s.op = hostSectorErase then enter .erCmd s
  else if s.op = hostPageProgram then enter .ppCmd s
  else endDue .success s

theorem Steady.ends_verify {next : State → Result × State} (hs : Steady s) (hop : s.op = 2 ∨ s.op = 3 ∨ s.op = 4)
    (hn : 1 ≤ n) (hblind : StateBlind next)
    (hk : ∀ u, fixed u = fixed s → u.main = .weVerify → Ends n (enabledNext u) (next u)) :
    Ends (3 + n) (enter .weVerify s) (onSuccess (verifyLatch s) next) := by
  have hc : phaseCommand (enter .weVerify s) = some .rdsr := by simp [phaseCommand, hs.2]
  rw [verifyLatch_eq, onSuccess_xactThen]
  refine hs.ends_frame (m := .weVerify) (i := .rdsr) rfl hop hc (by simp [frameOf]) hn
    (fun rx a b hab => ?_) fun rx u hu hm => ?_
  · exact (withoutState_blind.latchThen_eq hab rx).onSuccess hblind
  · rw [goOf, statusRead_verify rx hm]
    unfold verified latchThen
    split
    · exact Steady.ends_due (s := statusTaken rx u) (steady_congr hu hs) (by rintro h; simp [statusTaken, hm] at h)
        (by simp [statusTaken, hm, isDelay]) hn
    · exact hk (statusTaken rx u) hu hm

theorem Steady.ends_enableLatch {next : State → Result × State} (hs : Steady s) (hop : s.op = 2 ∨ s.op = 3 ∨ s.op = 4)
    (hn : 1 ≤ n) (hblind : StateBlind next)
    (hk : ∀ u, fixed u = fixed s → u.main = .weVerify → Ends n (enabledNext u) (next u)) :
    Ends (3 + (3 + (4 * s.cfg.toWe.toNat + (3 + n)))) (enter .weCmd s) (onSuccess (enableLatch s) next) := by
  have hc : phaseCommand (enter .weCmd s) = some .wren := by simp [phaseCommand, hs.2]
  have hverify : StateBlind fun v => onSuccess (verifyLatch v) next := stateBlind_verifyLatch.onSuccess hblind
  rw [enableLatch, onSuccess_xactThen]
  simp only [onSuccess_assoc]
  refine hs.ends_frame (m := .weCmd) (i := .wren) rfl hop hc (by simp [frameOf]) (by omega)
    (fun rx a b hab => ?_) fun rx u hu _ => ?_
  · rw [withoutState_blind.cfg_eq hab]
    exact (withoutState_blind.waitReady_eq hab _).onSuccess hverify
  · rw [← cfg_of_fixed hu]
    refine (steady_congr hu hs).ends_wait (m := .weWait2) rfl (by omega) hverify fun w hw hm => ?_
    have hready : waitReported .success w = enter .weVerify w := by simp [waitReported, hm]
    have hwu := hw.trans hu
    rw [hready]
    exact (steady_congr hwu hs).ends_verify (by rwa [op_of_fixed hwu]) hn hblind fun x hx => hk x (hx.trans hwu)

/-- From the first wait of the handshake on: two waits, write-enable, the latch check, and what follows the gate. -/
theorem Steady.ends_gated {next : State → Result × State} (hs : Steady s) (hop : s.op = 2 ∨ s.op = 3 ∨ s.op = 4)
    (hn : 1 ≤ n) (hblind : StateBlind next)
    (hk : ∀ u, fixed u = fixed s → u.main = .weVerify → Ends n (enabledNext u) (next u)) :
    Ends (8 * s.cfg.toWe.toNat + 12 + n) (enter .weWait1 s) (onSuccess (writeEnable s) next) := by
  rw [writeEnable_eq, onSuccess_assoc]
  refine Ends.mono (hs.ends_wait (m := .weWait1) rfl (n := 3 + (3 + (4 * s.cfg.toWe.toNat + (3 + n)))) (by omega)
    (fun a b hab => (withoutState_blind.enableLatch_eq hab).onSuccess hblind) fun u hu hm => ?_) (by omega)
  have hready : waitReported .success u = enter .weCmd u := by simp [waitReported, hm]
  rw [hready, ← cfg_of_fixed hu]
  exact (steady_congr hu hs).ends_enableLatch (by rwa [op_of_fixed hu]) hn hblind fun w hw => hk w (hw.trans hu)

/-! ### The six operations -/

theorem Steady.ends_writeEnable (hs : Steady s) (hop : s.op = 2) :
    Ends (8 * s.cfg.toWe.toNat + 13) (enter .weWait1 s) (writeEnable s) := by
  have h := hs.ends_gated (n := 1) (.inl hop) le_rfl stateBlind_pure fun u hu hm => by
    have hnext : enabledNext u = endDue .success u := by
      simp [enabledNext, op_of_fixed hu, hop, hostSectorErase, hostPageProgram]
    rw [hnext]
    exact (steady_congr hu hs).ends_due (by simp [hm]) (by simp [hm, isDelay]) le_rfl
  rwa [onSuccess_pure] at h

theorem Steady.ends_sectorErase (hs : Steady s) (hop : s.op = 3) :
    Ends (8 * s.cfg.toWe.toNat + 4 * s.cfg.toErase.toNat + 19) (enter .weWait1 s) (sectorErase s) := by
  rw [sectorErase_eq]
  refine Ends.mono (hs.ends_gated (n := 4 * s.cfg.toErase.toNat + 7) (.inr (.inl hop)) (by omega) stateBlind_eraseThen
    fun u hu _ => ?_) (by omega)
  have hopu : u.op = 3 := (op_of_fixed hu).trans hop
  have hnext : enabledNext u = enter .erCmd u := by simp [enabledNext, hopu, hostSectorErase]
  rw [hnext, ← cfg_of_fixed hu]
  exact (steady_congr hu hs).ends_eraseThen hopu

theorem Steady.ends_pageProgram (hs : Steady s) (hop : s.op = 4) (hlen : tooLong s.cfg s.len = false) :
    Ends (8 * s.cfg.toWe.toNat + 4 * s.cfg.toProg.toNat + 19) (enter .weWait1 s) (pageProgram s) := by
  rw [pageProgram_eq hlen]
  refine Ends.mono (hs.ends_gated (n := 4 * s.cfg.toProg.toNat + 7) (.inr (.inr hop)) (by omega) stateBlind_programThen
    fun u hu _ => ?_) (by omega)
  have hopu : u.op = 4 := (op_of_fixed hu).trans hop
  have hnext : enabledNext u = enter .ppCmd u := by simp [enabledNext, hopu, hostSectorErase, hostPageProgram]
  rw [hnext, ← cfg_of_fixed hu]
  refine (steady_congr hu hs).ends_programThen hopu ?_
  rw [len_of_fixed hu, cfg_of_fixed hu]
  exact tooLong_eq_false.mp hlen

theorem Steady.ends_readJedecID (hs : Steady s) (hop : s.op = 1) : Ends 4 (enter .id s) (readJedecID s) := by
  have hc : phaseCommand (enter .id s) = some .rdid := by simp [phaseCommand, hs.2]
  rw [readJedecID_eq]
  refine hs.ends_frame (m := .id) (i := .rdid) rfl hop hc (by simp [frameOf]) le_rfl
    (fun rx a b hab => ?_) fun rx u hu hm => ?_
  · exact withoutState_blind.idTaken_eq hab rx
  · exact Steady.ends_due (s := (idTaken rx u).2) (steady_congr hu hs) (by simp [idTaken, hm])
      (by simp [idTaken, hm, isDelay]) le_rfl

theorem stateBlind_dataTaken (rx : List Byte) : StateBlind (dataTaken rx) :=
  fun _ _ hab => withoutState_blind.dataTaken_eq hab rx

/-- The frame of `read` and its data (R171, R172). -/
theorem Steady.ends_readFrame (hs : Steady s) (hop : s.op = 5) (hlen : s.len.toNat ≤ s.cfg.pageSize) :
    Ends 4 (enter .rdCmd s) (xactThen (frameRead s.cfg s.addr s.len.toNat) dataTaken s) := by
  have hc : phaseCommand (enter .rdCmd s) = some (.rd s.addr s.len) := by simp [phaseCommand, hs.2]
  refine hs.ends_frame (m := .rdCmd) (i := .rd s.addr s.len) rfl hop hc (by simpa [frameOf] using hlen) le_rfl
    stateBlind_dataTaken fun rx u hu hm => ?_
  have hnext : goOf (.rd s.addr s.len) rx u = endDue .success (dataTaken rx u).2 := by
    rw [← len_of_fixed hu]
    rfl
  rw [hnext]
  exact Steady.ends_due (s := (dataTaken rx u).2) (steady_congr hu hs) (by simp [dataTaken, hm])
    (by simp [dataTaken, hm, isDelay]) le_rfl

theorem stateBlind_checkThen (rx : List Byte) : StateBlind (checkThen rx) :=
  fun _ _ hab => withoutState_blind.checkThen_eq hab (fun _ => rfl) (fun _ => rfl) rx

theorem Steady.ends_read (hs : Steady s) (hop : s.op = 5) (hlen : tooLong s.cfg s.len = false) :
    Ends 7 (enter .rdCheck s) (read s) := by
  have hc : phaseCommand (enter .rdCheck s) = some .rdsr := by simp [phaseCommand, hs.2]
  rw [read_eq hlen]
  refine hs.ends_frame (m := .rdCheck) (i := .rdsr) (n := 4) rfl hop hc (by simp [frameOf]) (by omega)
    stateBlind_checkThen fun rx u hu hm => ?_
  rw [goOf, statusRead_check rx hm]
  unfold checked checkThen
  split
  · exact Steady.ends_due (s := statusTaken rx u) (steady_congr hu hs) (by rintro h; simp [statusTaken, hm] at h)
      (by simp [statusTaken, hm, isDelay]) (by omega)
  · have hu' : fixed (statusTaken rx u) = fixed s := hu
    refine Steady.ends_readFrame (s := statusTaken rx u) (steady_congr hu' hs) ((op_of_fixed hu').trans hop) ?_
    rw [len_of_fixed hu', cfg_of_fixed hu']
    exact tooLong_eq_false.mp hlen

/-- The gap after RSTEN, and the settle time after RST (R163). -/
theorem Steady.step_rstGap (hs : Steady s) (hop : s.op = 0) :
    step (enter .rstGap s) = .next (enter .rstCmd (delayReq Config.rstGapMs s)) :=
  (step_gap (s := enter .rstGap s) hs.1.1 (phaseOk_enter (m := .rstGap) nofun hs.2 hop).1 rfl).trans
    (delayStep_runs hs.1.2)

theorem Steady.step_rstSettle (hs : Steady s) (hop : s.op = 0) :
    step (enter .rstSettle s) = .next (enter .rstWait (delayReq Config.rstSettleMs s)) :=
  (step_settle (s := enter .rstSettle s) hs.1.1 (phaseOk_enter (m := .rstSettle) nofun hs.2 hop).1 rfl).trans
    (delayStep_runs hs.1.2)

/-- `reset` from its second frame on (R163). -/
theorem Steady.ends_rstCmd (hs : Steady s) (hop : s.op = 0) : Ends (4 * s.cfg.toReset.toNat + 8) (enter .rstCmd s)
    (xactThen (frameBare opRst) (fun _ u => waitReady u.cfg.toReset (delayReq Config.rstSettleMs u)) s) := by
  have hc : phaseCommand (enter .rstCmd s) = some .rst := by simp [phaseCommand, hs.2]
  refine Ends.mono (hs.ends_frame (m := .rstCmd) (i := .rst) (n := 1 + (4 * s.cfg.toReset.toNat + 4)) rfl hop hc
    (by simp [frameOf]) (by omega) (fun rx a b hab => ?_) fun rx u hu _ => ?_) (by omega)
  · rw [withoutState_blind.cfg_eq hab]
    exact withoutState_blind.waitReady_eq (withoutState_blind.delayReq_eq hab _) _
  · have hsu := steady_congr hu hs
    refine .of_steps ((steps_one _).trans (hsu.step_rstSettle ((op_of_fixed hu).trans hop))) ?_
    rw [← cfg_of_fixed hu]
    exact Steady.ends_lastWait (s := delayReq Config.rstSettleMs u) (m := .rstWait) hsu rfl nofun nofun

theorem Steady.ends_reset (hs : Steady s) (hop : s.op = 0) :
    Ends (4 * s.cfg.toReset.toNat + 12) (enter .rstEn s) (reset s) := by
  have hc : phaseCommand (enter .rstEn s) = some .rsten := by simp [phaseCommand, hs.2]
  rw [reset_eq]
  refine Ends.mono (hs.ends_frame (m := .rstEn) (i := .rsten) (n := 1 + (4 * s.cfg.toReset.toNat + 8)) rfl hop hc
    (by simp [frameOf]) (by omega) (fun rx a b hab => ?_) fun rx u hu _ => ?_) (by omega)
  · refine withoutState_blind.xactThen_eq (withoutState_blind.delayReq_eq hab _) fun rx' hab' => ?_
    rw [withoutState_blind.cfg_eq hab']
    exact withoutState_blind.waitReady_eq (withoutState_blind.delayReq_eq hab' _) _
  · have hsu := steady_congr hu hs
    have hopu := (op_of_fixed hu).trans hop
    refine .of_steps ((steps_one _).trans (hsu.step_rstGap hopu)) ?_
    rw [← cfg_of_fixed hu]
    exact Steady.ends_rstCmd (s := delayReq Config.rstGapMs u) hsu hopu

/-! ### From the start to the end -/

theorem ends_rejected (hs : Steady s) (hm : m ≠ .idle) (hd : isDelay m = false) :
    Ends 1 (endDue r { s with main := m }) (r, s) :=
  (Steady.ends_due (s := { s with main := m }) hs hm hd le_rfl).congr ⟨rfl, rfl⟩

/-- The first activity of every operation runs its procedure, within the bound (R175, R192, R216). -/
theorem Steady.ends_operation (hs : Steady s) (hi : isOperation i = true) (hop : s.op = opOf i) :
    Ends (stepBound s.cfg) (firstOf i s) (procedureOf i s) := by
  cases i
  case reset => exact (hs.ends_reset hop).mono (by simp only [stepBound]; omega)
  case readJedecID => exact (hs.ends_readJedecID hop).mono (by simp only [stepBound]; omega)
  case writeEnable => exact (hs.ends_writeEnable hop).mono (by simp only [stepBound]; omega)
  case sectorErase => exact (hs.ends_sectorErase hop).mono (by simp only [stepBound]; omega)
  case pageProgram =>
    rw [firstOf, procedureOf]
    cases hl : tooLong s.cfg s.len with
    | true =>
      rw [lengthChecked_rejects hl, pageProgram_tooLong hl]
      exact (ends_rejected (m := .weWait1) hs nofun rfl).mono (by simp only [stepBound]; omega)
    | false =>
      rw [lengthChecked_ok hl]
      exact (hs.ends_pageProgram hop hl).mono (by simp only [stepBound]; omega)
  case read =>
    rw [firstOf, procedureOf]
    cases hl : tooLong s.cfg s.len with
    | true =>
      rw [lengthChecked_rejects hl, read_tooLong hl]
      exact (ends_rejected (m := .rdCheck) hs nofun rfl).mono (by simp only [stepBound]; omega)
    | false =>
      rw [lengthChecked_ok hl]
      exact (hs.ends_read hop hl).mono (by simp only [stepBound]; omega)
  all_goals cases hi

theorem steady_latched {q : Request} {rest : List Request} (hu : Undisturbed s) (hidle : isIdle s = true) (i : Instr) :
    Steady (latched i (takeRequest q rest s)) := by
  obtain ⟨-, -, -, he⟩ := isIdle_iff.mp hidle
  cases i <;> exact ⟨hu, he⟩

theorem latched_cfg (i : Instr) (s : State) : (latched i s).cfg = s.cfg := by
  cases i <;> rfl

theorem step_start {q : Request} {rest : List Request} (hr : s.resetLine = false) (hidle : isIdle s = true)
    (hp : s.port = q :: rest) (hd : decode q.code = .ok i) (hi : isOperation i = true) :
    step s = .next (firstOf i (latched i (takeRequest q rest s))) := by
  rw [step_request hr hidle hp, hd]
  exact exec_operation_idle hi hidle

/-- An operation at the port of an idle machine: the start, and then its procedure (R175, R191). -/
theorem ends_of_request {q : Request} {rest : List Request} (hu : Undisturbed s) (hidle : isIdle s = true)
    (hp : s.port = q :: rest) (hd : decode q.code = .ok i) (hi : isOperation i = true) :
    Ends (stepBound s.cfg + 1) s (procedureOf i (latched i (takeRequest q rest s))) := by
  have hends := (steady_latched hu hidle i).ends_operation hi (latched_op i (takeRequest q rest s))
  rw [latched_cfg] at hends
  exact (Ends.of_steps ((steps_one s).trans (step_start hu.1 hidle hp hd hi)) hends).mono (Nat.add_comm ..).le

/-- Settles O48: `ends_of_request`. -/
theorem operationsRunTheirProcedures : Obligations.OperationsRunTheirProcedures := by
  intro s t q rest i hu hidle _ hp hd hop
  have hi := isOperation_of_operation hop
  rw [operation_eq hi] at hop
  obtain rfl := Option.some.inj hop
  exact ends_of_request hu hidle hp hd hi

end Sys2Proof.Machine
end

section
/-! What the procedures send: the polls of a wait, counted (R145), and the handshake (R147). -/

namespace Sys2Proof.Machine.Procedure

variable {s t u : State} {r : Result} {c : Cfg} {k n : Nat} {added : List Event}

/-! ### The polls of a wait -/

/-- The events of `k + 1` status reads with `k` delays between them (R145). -/
structure Polls (c : Cfg) (k : Nat) (added : List Event) : Prop where
  exchanges : countXchg added = k + 1
  frames : ∀ tx rx, Event.xchg tx rx ∈ added → tx = frameStatus c
  delays : added.count (.delay 1) = k
  length : added.length = 3 * (k + 1) + k

/-- The events of one transaction. -/
def xactEvents (tx : List Byte) (rx : Option (List Byte)) : List Event := [.sel, .xchg tx rx, .desel]

theorem xact_events (tx : List Byte) (s : State) : (xact tx s).2.trace = s.trace ++ xactEvents tx (xact tx s).1 := by
  simp [xact, xactEvents]

theorem Polls.last (rx : Option (List Byte)) : Polls c 0 (xactEvents (frameStatus c) rx) where
  exchanges := rfl
  frames := by
    intro tx rx' h
    simp only [xactEvents, List.mem_cons, Event.xchg.injEq, reduceCtorEq, List.not_mem_nil, or_false, false_or] at h
    exact h.1
  delays := by simp [xactEvents]
  length := rfl

theorem Polls.more (h : Polls c k added) (rx : Option (List Byte)) :
    Polls c (k + 1) (xactEvents (frameStatus c) rx ++ .delay 1 :: added) where
  exchanges := by
    have := h.exchanges
    simp_all [countXchg, xactEvents]
  frames := by
    intro tx rx' h'
    simp only [xactEvents, List.mem_append, List.mem_cons, Event.xchg.injEq, reduceCtorEq, List.not_mem_nil, or_false,
      false_or] at h'
    exact h'.elim And.left (h.frames tx rx')
  delays := by simp [xactEvents, h.delays]
  length := by
    simp only [List.length_append, List.length_cons, h.length, xactEvents, List.length_nil]
    omega

/-- What a wait that made `k` delays returns, with `room` delays allowed (R144, R149). -/
def WaitResult (k room : Nat) (p : Result × State) : Prop :=
  (p.1 = .success ∧ busy p.2.status = false) ∨ (p.1 = .timeout ∧ k = room ∧ busy p.2.status = true) ∨
    p.1 = .transportError

/-- What `k` delays of a loop entered in `s` leave behind, with `room` allowed (R145). -/
structure Polled (s : State) (k : Nat) (p : Result × State) : Prop where
  within : k ≤ s.tlim.toNat - s.pollcnt.toNat
  polls : ∃ added, p.2.trace = s.trace ++ added ∧ Polls s.cfg k added
  pollcnt : p.2.pollcnt.toNat = s.pollcnt.toNat + k
  tlim : p.2.tlim = s.tlim
  result : WaitResult k (s.tlim.toNat - s.pollcnt.toNat) p

/-- The first status read is also the last. -/
theorem Polled.last {rx : Option (List Byte)} (htrace : t.trace = s.trace ++ xactEvents (frameStatus s.cfg) rx)
    (hcnt : t.pollcnt = s.pollcnt) (hlim : t.tlim = s.tlim)
    (hw : WaitResult 0 (s.tlim.toNat - s.pollcnt.toNat) (r, t)) : Polled s 0 (r, t) where
  within := Nat.zero_le _
  polls := ⟨_, htrace, .last rx⟩
  pollcnt := congrArg BitVec.toNat hcnt
  tlim := hlim
  result := hw

/-- A status read and a delay in front. -/
theorem Polled.more {rx : Option (List Byte)} {p : Result × State} (h : Polled t k p)
    (htrace : t.trace = s.trace ++ xactEvents (frameStatus s.cfg) rx ++ [.delay 1]) (hcfg : t.cfg = s.cfg)
    (hcnt : t.pollcnt.toNat = s.pollcnt.toNat + 1) (hlim : t.tlim = s.tlim)
    (hroom : s.pollcnt.toNat < s.tlim.toNat) : Polled s (k + 1) p := by
  obtain ⟨hk, ⟨added, hadded, hp⟩, hpc, hpl, hw⟩ := h
  rw [hlim, hcnt] at hk hw
  rw [hcfg] at hp
  refine ⟨by omega, ⟨_, ?_, hp.more rx⟩, by rw [hpc, hcnt]; omega, hpl.trans hlim, ?_⟩
  · rw [hadded, htrace]; simp
  · rcases hw with hw | ⟨hr, hk', hb⟩ | hw
    · exact .inl hw
    · exact .inr (.inl ⟨hr, by omega, hb⟩)
    · exact .inr (.inr hw)

/-- The loop's outcome and events, with the room its registers leave (R145). -/
theorem pollLoop_polled (polls : Nat) (s : State) (hpolls : s.tlim.toNat - s.pollcnt.toNat < polls) :
    ∃ k, Polled s k (pollLoop polls s) := by
  induction polls generalizing s with
  | zero => omega
  | succ polls ih =>
    have htrace := xact_events (frameStatus s.cfg) s
    have hcfg := xact_cfg (frameStatus s.cfg) s
    have hlim := xact_tlim (frameStatus s.cfg) s
    have hcnt := xact_pollcnt (frameStatus s.cfg) s
    rw [pollLoop_succ, xactThen]
    generalize xact (frameStatus s.cfg) s = x at htrace hcfg hlim hcnt ⊢
    obtain ⟨_ | rx, t⟩ := x
    · exact ⟨0, .last htrace hcnt hlim (.inr (.inr rfl))⟩
    · change ∃ k, Polled s k (pollThen _ rx t)
      rw [pollThen]
      split
      · rename_i hready
        exact ⟨0, .last htrace hcnt hlim (.inl ⟨rfl, by simpa using hready⟩)⟩
      · rename_i hbusy
        split
        · rename_i hexpired
          have hle : s.tlim ≤ s.pollcnt := hlim ▸ hcnt ▸ expired_iff.mp hexpired
          have hroom : 0 = s.tlim.toNat - s.pollcnt.toNat := by bv_omega
          exact ⟨0, .last htrace hcnt hlim (.inr (.inl ⟨rfl, hroom, by simpa using hbusy⟩))⟩
        · rename_i hexpired
          have hlt : s.pollcnt < s.tlim := by
            rw [← hlim, ← hcnt]
            simpa [expired_iff] using hexpired
          have hcnt' : (paced (statusTaken rx t)).pollcnt.toNat = s.pollcnt.toNat + 1 := by
            simp only [paced_pollcnt, statusTaken_pollcnt]
            bv_omega
          have hlim' : (paced (statusTaken rx t)).tlim = s.tlim := by simpa using hlim
          obtain ⟨k, hk⟩ := ih (paced (statusTaken rx t)) (by rw [hlim', hcnt']; bv_omega)
          exact ⟨k + 1, hk.more ((paced_trace _).trans (congrArg (· ++ [Event.delay 1]) htrace)) hcfg hcnt' hlim' hlt⟩

/-- A wait's outcome and events (R145). -/
theorem waitReady_polls (l : Millis) (s : State) :
    ∃ k added, k ≤ l.toNat ∧ (waitReady l s).2.trace = s.trace ++ added ∧ Polls s.cfg k added ∧
      (waitReady l s).2.pollcnt.toNat = k ∧ (waitReady l s).2.tlim = l ∧ WaitResult k l.toNat (waitReady l s) := by
  obtain ⟨k, hk, ⟨added, htrace, hp⟩, hcnt, hlim, hw⟩ :=
    pollLoop_polled (l.toNat + 1) { s with tlim := l, pollcnt := 0 } (by simp)
  exact ⟨k, added, by simpa using hk, htrace, hp, by simpa [waitReady] using hcnt, hlim, by simpa [waitReady] using hw⟩

/-- Settles O50: `waitReady_polls`. -/
theorem waitReadyIsBounded : Obligations.WaitReadyIsBounded := by
  intro s t l r h
  obtain ⟨k, added, hk, htrace, hp, hcnt, hlim, hw⟩ := waitReady_polls l s
  rw [h] at htrace hcnt hlim hw
  exact ⟨k, added, hk, htrace, hp.exchanges, hp.frames, hp.delays, hp.length, hcnt, hlim, hw⟩

/-! ### The handshake -/

/-- The write-enable frames in a trace. -/
def countWren (tr : List Event) : Nat :=
  (tr.filter fun e => match e with | .xchg tx _ => firstByte tx == 0x06 | _ => false).length

theorem countWren_append (a b : List Event) : countWren (a ++ b) = countWren a + countWren b := by
  simp [countWren]

/-- A wait sends status reads only. -/
theorem Polls.countWren_eq_zero (h : Polls c k added) : countWren added = 0 := by
  rw [countWren, List.length_eq_zero_iff, List.filter_eq_nil_iff]
  intro e he
  cases e with
  | xchg tx rx =>
    rw [h.frames tx rx he]
    simp [firstByte, frameStatus, opRdsr]
  | _ => simp

/-- What the handshake reports of the latch, and how many write-enable frames it sent (R147). -/
structure LatchReport (c : Cfg) (n : Nat) (s : State) (p : Result × State) : Prop where
  set : p.1 = .success → wel c p.2.status = true
  clear : p.1 = .writeEnableFailed → wel c p.2.status = false
  sent : p.1 = .success ∨ p.1 = .writeEnableFailed → ∃ added, p.2.trace = s.trace ++ added ∧ countWren added = n
  results : p.1 = .success ∨ p.1 = .writeEnableFailed ∨ p.1 = .timeout ∨ p.1 = .transportError

theorem LatchReport.of_timeout (t : State) : LatchReport c n s (.timeout, t) :=
  ⟨nofun, nofun, by simp, .inr (.inr (.inl rfl))⟩

theorem LatchReport.of_transportError (t : State) : LatchReport c n s (.transportError, t) :=
  ⟨nofun, nofun, by simp, .inr (.inr (.inr rfl))⟩

/-- What was sent before counts too. -/
theorem LatchReport.after {p : Result × State} {m : Nat} (h : LatchReport c n t p) (ht : t.trace = s.trace ++ added)
    (hm : countWren added = m) : LatchReport c (m + n) s p := by
  refine ⟨h.set, h.clear, fun hr => ?_, h.results⟩
  obtain ⟨more, hmore, hn⟩ := h.sent hr
  exact ⟨added ++ more, by rw [hmore, ht, List.append_assoc], by rw [countWren_append, hm, hn]⟩

/-- A wait in front, whose failures are its own. -/
theorem LatchReport.after_wait {l : Millis} {go : State → Result × State}
    (h : ∀ t, t.cfg = s.cfg → LatchReport s.cfg n t (go t)) : LatchReport s.cfg n s (onSuccess (waitReady l s) go) := by
  obtain ⟨k, added, -, htrace, hp, -, -, hw⟩ := waitReady_polls l s
  have hcfg := kept_cfg.waitReady l s
  generalize waitReady l s = p at htrace hw hcfg ⊢
  obtain ⟨r, t⟩ := p
  rcases hw with ⟨rfl : r = .success, -⟩ | ⟨rfl : r = .timeout, -⟩ | rfl
  · simpa using (h t hcfg).after htrace hp.countWren_eq_zero
  · exact .of_timeout t
  · exact .of_transportError t

theorem verifyLatch_report (s : State) : LatchReport s.cfg 0 s (verifyLatch s) := by
  have htrace := xact_events (frameStatus s.cfg) s
  rw [verifyLatch_eq]
  cases ha : (xact (frameStatus s.cfg) s).1 with
  | none => rw [xactThen_failed ha]; exact .of_transportError _
  | some rx =>
    rw [xactThen_answered ha, latchThen]
    split
    · rename_i hw
      have hclear : wel s.cfg (rxStatus rx) = false := by
        rw [Bool.not_eq_true'] at hw
        exact hw
      exact ⟨nofun, fun _ => hclear, fun _ => ⟨_, htrace, rfl⟩, .inr (.inl rfl)⟩
    · rename_i hw
      have hset : wel s.cfg (rxStatus rx) = true := by
        rw [Bool.not_eq_true', Bool.not_eq_false] at hw
        exact hw
      exact ⟨fun _ => hset, nofun, fun _ => ⟨_, htrace, rfl⟩, .inl rfl⟩

theorem enableLatch_report (s : State) : LatchReport s.cfg 1 s (enableLatch s) := by
  have htrace := xact_events (frameBare opWren) s
  rw [enableLatch]
  cases ha : (xact (frameBare opWren) s).1 with
  | none => rw [xactThen_failed ha]; exact .of_transportError _
  | some rx =>
    rw [xactThen_answered ha]
    have hrest : LatchReport s.cfg 0 (xact (frameBare opWren) s).2 _ :=
      LatchReport.after_wait (s := (xact (frameBare opWren) s).2) (l := (xact (frameBare opWren) s).2.cfg.toWe)
        fun t ht => ht ▸ verifyLatch_report t
    exact hrest.after htrace rfl

theorem writeEnable_report (s : State) : LatchReport s.cfg 1 s (writeEnable s) := by
  rw [writeEnable_eq]
  exact .after_wait fun t ht => ht ▸ enableLatch_report t

/-- Settles O51: `writeEnable_report`. -/
theorem writeEnableReportsTheLatch : Obligations.WriteEnableReportsTheLatch := by
  intro s t r h
  have hreport := writeEnable_report s
  rw [h] at hreport
  refine ⟨hreport.set, hreport.clear, fun hr => ?_, hreport.results⟩
  obtain ⟨added, htrace, hn⟩ := hreport.sent hr
  exact ⟨added, htrace, hn⟩

end Sys2Proof.Machine.Procedure
end

section
/-! The two frames of `reset` (R163), against a transport with its answers laid down. -/

namespace Sys2Proof.Machine

open Procedure

variable {s : State} {i : Instr} {m : Main} {b x : Byte} {tx : List Byte} {more : List (Option (List Byte))}

/-! ### Laid-down answers -/

theorem xact_failed (h : s.transport = .oracle (none :: more)) : (xact tx s).1 = none := by
  simp [xact, h, Transport.exchange]

theorem xact_answered (h : s.transport = .oracle (some [b] :: more)) : (xact [x] s).1 = some [b] := by
  simp [xact, h, Transport.exchange]

theorem xact_transport (h : s.transport = .oracle (some [b] :: more)) :
    (xact [x] s).2.transport = .oracle more := by
  simp [xact, h, Transport.exchange]

theorem xact_failed_trace (h : s.transport = .oracle (none :: more)) :
    (xact tx s).2.trace = s.trace ++ xactEvents tx none :=
  xact_failed h ▸ xact_events tx s

theorem xact_answered_trace (h : s.transport = .oracle (some [b] :: more)) :
    (xact [x] s).2.trace = s.trace ++ xactEvents [x] (some [b]) :=
  xact_answered h ▸ xact_events [x] s

/-! ### One frame -/

/-- The three steps of a phase that emits one frame and is no wait, answered. -/
theorem Steady.steps_frame (hs : Steady s) (hop : phaseOf s.op m)
    (hc : phaseCommand (enter m s) = some i) (hfits : (frameOf s.cfg i).length ≤ s.cfg.pageSize + 4) {rx : List Byte}
    (ha : (xact (frameOf s.cfg i) (enter m s)).1 = some rx) :
    steps 3 (enter m s) = .next (goOf i rx (xact (frameOf s.cfg i) (enter m s)).2) := by
  have h := (hs.active_enter hop hc hfits).steps_xact (enter_xp_of_frame hc)
  rw [enter_cfg, ha] at h
  exact h

/-! ### A frame that fails ends `reset` -/

theorem reset_first_failed (h : s.transport = .oracle (none :: more)) :
    ∃ t, Procedure.reset s = (.transportError, t) ∧ t.trace = s.trace ++ xactEvents [0x66] none := by
  rw [reset_eq]
  exact ⟨_, xactThen_failed (xact_failed h), xact_failed_trace h⟩

theorem reset_second_failed (h : s.transport = .oracle (some [b] :: none :: more)) :
    ∃ t, Procedure.reset s = (.transportError, t) ∧
      t.trace = s.trace ++ xactEvents [0x66] (some [b]) ++ [.delay 1] ++ xactEvents [0x99] none := by
  have hsecond : (delayReq 1 (xact [0x66] s).2).transport = .oracle (none :: more) := xact_transport h
  rw [reset_eq]
  refine ⟨_, (xactThen_answered (xact_answered h)).trans (xactThen_failed (xact_failed hsecond)), ?_⟩
  rw [← xact_answered_trace h]
  exact xact_failed_trace hsecond

/-! ### Both frames answered -/

/-- The first frame and the delay after it, on the machine in their phases. -/
def resetGapped (s : State) : State := delayReq Config.rstGapMs (xact [0x66] (enter .rstEn s)).2

/-- The second frame and the delay after it. -/
def resetSettled (s : State) : State := delayReq Config.rstSettleMs (xact [0x99] (enter .rstCmd s)).2

theorem Steady.steps_rstEn (hs : Steady s) (hop : s.op = 0) (ht : s.transport = .oracle (some [b] :: more)) :
    steps (3 + 1) (enter .rstEn s) = .next (enter .rstCmd (resetGapped s)) := by
  have hc : phaseCommand (enter .rstEn s) = some .rsten := by simp [phaseCommand, hs.2]
  have hframe := hs.steps_frame (m := .rstEn) hop hc (by simp [frameOf])
    (xact_answered (more := more) (by simpa using ht))
  have hfixed : fixed (xact [0x66] (enter .rstEn s)).2 = fixed s := fixed_enter .rstEn s
  exact steps_trans hframe
    ((steps_one _).trans ((steady_congr hfixed hs).step_rstGap ((op_of_fixed hfixed).trans hop)))

theorem Steady.steps_rstCmd (hs : Steady s) (hop : s.op = 0) (ht : s.transport = .oracle (some [b] :: more)) :
    steps (3 + 1) (enter .rstCmd s) = .next (enter .rstWait (resetSettled s)) := by
  have hc : phaseCommand (enter .rstCmd s) = some .rst := by simp [phaseCommand, hs.2]
  have hframe := hs.steps_frame (m := .rstCmd) hop hc (by simp [frameOf])
    (xact_answered (more := more) (by simpa using ht))
  have hfixed : fixed (xact [0x99] (enter .rstCmd s)).2 = fixed s := fixed_enter .rstCmd s
  exact steps_trans hframe
    ((steps_one _).trans ((steady_congr hfixed hs).step_rstSettle ((op_of_fixed hfixed).trans hop)))

theorem resetGapped_trace (ht : s.transport = .oracle (some [b] :: more)) :
    (resetGapped s).trace = s.trace ++ xactEvents [0x66] (some [b]) ++ [.delay 1] := by
  rw [resetGapped, delayReq_trace, xact_answered_trace (more := more) (by simpa using ht), enter_trace]
  rfl

theorem resetSettled_trace (ht : s.transport = .oracle (some [b] :: more)) :
    (resetSettled s).trace = s.trace ++ xactEvents [0x99] (some [b]) ++ [.delay 2] := by
  rw [resetSettled, delayReq_trace, xact_answered_trace (more := more) (by simpa using ht), enter_trace]
  rfl

theorem resetGapped_transport (ht : s.transport = .oracle (some [b] :: more)) :
    (resetGapped s).transport = .oracle more :=
  xact_transport (by simpa using ht)

/-- Settles O55: the procedure's outcome when a frame fails, and the steps themselves when none does. -/
theorem resetSendsItsTwoFrames : Obligations.ResetSendsItsTwoFrames := by
  intro s q rest a n r0 r1 more hu hidle hp hcode
  have hd : decode q.code = .ok .reset := by rw [hcode]; rfl
  have hs := steady_latched (q := q) (rest := rest) hu hidle .reset
  have hends : Ends _ s (Procedure.reset (latched .reset (takeRequest q rest s))) := ends_of_request hu hidle hp hd rfl
  obtain ⟨k, -, hends⟩ := hends
  refine ⟨fun ht => ?_, fun ht => ?_, fun ht => ?_⟩
  · obtain ⟨t, hreset, htrace⟩ := reset_first_failed (s := latched .reset (takeRequest q rest s)) ht
    rw [hreset] at hends
    exact ⟨k, _, hends, rfl, rfl, rfl, htrace⟩
  · obtain ⟨t, hreset, htrace⟩ := reset_second_failed (s := latched .reset (takeRequest q rest s)) ht
    rw [hreset] at hends
    exact ⟨k, _, hends, rfl, rfl, rfl, htrace.trans (by simp only [List.append_assoc]; rfl)⟩
  · have hgapped : Steady (resetGapped (latched .reset (takeRequest q rest s))) := steady_congr (fixed_enter .rstEn _) hs
    have ht' := resetGapped_transport (s := latched .reset (takeRequest q rest s)) ht
    have hsteps := steps_trans
      (steps_trans ((steps_one s).trans (step_start hu.1 hidle hp hd rfl)) (hs.steps_rstEn rfl ht)) (hgapped.steps_rstCmd rfl ht')
    refine ⟨_, _, hsteps, rfl, rfl, rfl, rfl, rfl, rfl, ?_⟩
    rw [enter_trace, resetSettled_trace ht', resetGapped_trace (s := latched .reset (takeRequest q rest s)) ht]
    simp only [List.append_assoc]
    rfl

end Sys2Proof.Machine
end

section
/-! The simple device of 95_test_vectors.md 0.3 behind the procedures: what it answers to a status read, what time and the
commands do to it, and what a program leaves in its array. -/

namespace Sys2Proof.Machine

variable {c : Cfg} {d : Device} {m : Memory} {a : Addr} {tx tx' data : List Byte}

/-! ### The array -/

theorem frameAddr_of_addrBytes (b : Byte) (a : Addr) (rest : List Byte) :
    frameAddr (b :: (addrBytes a ++ rest)) = a :=
  joinAddr_extract a

theorem arrayAddr_ne {j k : Nat} (h : j < k) (hk : k < j + 2 ^ 24) : arrayAddr tx j ≠ arrayAddr tx k := by
  unfold arrayAddr
  omega

theorem arrayAddr_congr (h : frameAddr tx = frameAddr tx') (k : Nat) : arrayAddr tx k = arrayAddr tx' k := by
  rw [arrayAddr, h, arrayAddr]

theorem read_programArray_outside {x : Nat} (k : Nat) (data : List Byte)
    (h : ∀ j, k ≤ j → j < k + data.length → x ≠ arrayAddr tx j) :
    Memory.read (programArray tx m k data) x = Memory.read m x := by
  induction data generalizing m k with
  | nil => rfl
  | cons b data ih =>
    simp only [List.length_cons] at h
    rw [programArray, ih (k + 1) fun j hj hlt => h j (by omega) (by omega),
      Memory.read_write_other m b (h k le_rfl (by omega))]

/-- What was programmed is read back: the device space is larger than a frame (R251). -/
theorem read_programArray (hm : m.wf) (k : Nat) (hdata : data.length ≤ 2 ^ 24) (i : Nat) (hi : i < data.length) :
    Memory.read (programArray tx m k data) (arrayAddr tx (k + i)) = data[i] := by
  induction data generalizing m k i with
  | nil => cases hi
  | cons b data ih =>
    simp only [List.length_cons] at hdata hi
    rw [programArray]
    cases i with
    | zero =>
      rw [read_programArray_outside (k + 1) data fun j hj hlt => arrayAddr_ne (by omega) (by omega)]
      exact Memory.read_write_same hm _ b
    | succ i =>
      have h := ih (Memory.write_wf hm (arrayAddr tx k) b) (k + 1) (by omega) i (by omega)
      rwa [Nat.add_assoc, Nat.add_comm 1 i] at h

/-! ### Status reads -/

theorem busy_statusByte (d : Device) : busy d.statusByte = d.isBusy := by
  unfold Device.statusByte
  cases d.wel <;> cases d.isBusy <;> rfl

theorem wel_statusByte (hc : c.welBit = 1) (d : Device) : wel c d.statusByte = d.wel := by
  unfold Device.statusByte wel
  rw [hc]
  cases d.wel <;> cases d.isBusy <;> rfl

theorem isBusy_iff (h : d.busyForever = false) : d.isBusy = true ↔ 0 < d.busyCnt := by
  simp [Device.isBusy, h]

/-- The device never fails an exchange nor hangs busy, and its latch works. -/
structure Device.Sound (d : Device) : Prop where
  failAt : d.failAt = none
  busyForever : d.busyForever = false
  noLatch : d.noLatch = false

theorem Device.Sound.withWel (hd : d.Sound) : Device.Sound { d with wel := true } :=
  ⟨hd.failAt, hd.busyForever, hd.noLatch⟩

/-- A status read only lets time pass. -/
theorem Device.afterStatusRead_spec (d : Device) :
    d.afterStatusRead.busyCnt = d.busyCnt - 1 ∧ d.afterStatusRead.mem = d.mem ∧
      (d.Sound → d.afterStatusRead.Sound) := by
  unfold Device.afterStatusRead
  split
  · rename_i h
    exact ⟨by omega, rfl, id⟩
  · split
    · rename_i h
      simp only [Bool.and_eq_true, decide_eq_true_eq] at h
      exact ⟨by simp [h.1], rfl, fun hd => ⟨hd.failAt, hd.busyForever, hd.noLatch⟩⟩
    · exact ⟨rfl, rfl, fun hd => ⟨hd.failAt, hd.busyForever, hd.noLatch⟩⟩

/-- The device once it has been read ready. -/
def Device.settled (d : Device) : Device := Device.afterStatusRead^[d.busyCnt] d

theorem Device.settled_of_ready (h : d.busyCnt = 0) : d.settled = d := by
  rw [settled, h, Function.iterate_zero_apply]

theorem Device.settled_afterStatusRead (h : 0 < d.busyCnt) : d.afterStatusRead.settled = d.settled := by
  obtain ⟨n, hn⟩ := Nat.exists_eq_add_of_lt h
  rw [settled, settled, d.afterStatusRead_spec.1, hn]
  simp

theorem Device.settled_spec (d : Device) :
    d.settled.busyCnt = 0 ∧ d.settled.mem = d.mem ∧ (d.Sound → d.settled.Sound) := by
  induction hn : d.busyCnt generalizing d with
  | zero => rw [settled_of_ready hn]; exact ⟨hn, rfl, id⟩
  | succ n ih =>
    obtain ⟨hcnt, hmem, hsound⟩ := d.afterStatusRead_spec
    obtain ⟨hcnt', hmem', hsound'⟩ := ih d.afterStatusRead (by omega)
    rw [settled_afterStatusRead (by omega)] at hcnt' hmem' hsound'
    exact ⟨hcnt', hmem'.trans hmem, fun hd => hsound' (hsound hd)⟩

/-! ### The commands -/

theorem Device.does_status (d : Device) : d.does (frameStatus c) = d.afterStatusRead := rfl

theorem Device.does_wren (hd : d.Sound) (hready : d.busyCnt = 0) :
    d.does (frameBare opWren) = { d with wel := true } := by
  simp [does, frameBare, firstByte, opWren, opRdsr, hready, hd.busyForever, hd.noLatch]

theorem Device.does_program (hready : d.busyCnt = 0) (hwel : d.wel = true) :
    d.does (frameProgram a data) =
      { d with mem := programArray (frameProgram a data) d.mem 0 data, busyCnt := d.bPp, mutating := true } := by
  simp [does, obeys, frameProgram, addrBytes, firstByte, opPp, opRdsr, opWren, opWrdi, opSe, hready, hwel]

theorem Device.sends_read {n : Nat} (hready : d.busyCnt = 0) (k : Nat) :
    d.sends (frameRead c a n) (4 + k) = Memory.read d.mem (arrayAddr (frameRead c a n) k) := by
  simp [sends, frameRead, firstByte, opRd, opRdsr, opRdid, hready]

end Sys2Proof.Machine
end

section
/-! The round trip (70_reset_and_hazards.md section 3): the procedures of `pageProgram` and `read` against the simple
device. `Serves d s` says that the simple device is at the link and is `d` but for what it counts of the exchanges. -/

namespace Sys2Proof.Machine.Procedure

variable {s t : State} {c : Cfg} {d e : Device} {p : Result × State} {a : Addr} {tx data : List Byte}

/-! ### One exchange -/

theorem frameStatus_ne_rst (c : Cfg) : firstByte (frameStatus c) ≠ opRst := by
  simp [firstByte, frameStatus, opRdsr, opRst]
theorem frameWren_ne_rst : firstByte (frameBare opWren) ≠ opRst := by decide
theorem frameProgram_ne_rst (a : Addr) (data : List Byte) : firstByte (frameProgram a data) ≠ opRst := by
  simp [firstByte, frameProgram, opPp, opRst]
theorem frameRead_ne_rst (c : Cfg) (a : Addr) (n : Nat) : firstByte (frameRead c a n) ≠ opRst := by
  simp [firstByte, frameRead, opRd, opRst]

def Serves (d : Device) (s : State) : Prop :=
  ∃ seen armed, s.transport = .simple { d with seen := seen, armed := armed }

/-- Only RST looks at what came before. -/
theorem does_counted (h : firstByte tx ≠ opRst) (seen : Nat) (armed : Bool) :
    Device.does { d with seen := seen, armed := armed } tx = { d.does tx with seen := seen, armed := armed } := by
  have hobeys : Device.obeys { d with seen := seen, armed := armed } = d.obeys := rfl
  have hstatus : Device.afterStatusRead { d with seen := seen, armed := armed } =
      { d.afterStatusRead with seen := seen, armed := armed } := by
    unfold Device.afterStatusRead
    split
    · rfl
    · split <;> rfl
  simp only [Device.does, hobeys, hstatus, if_neg h]
  split_ifs <;> rfl

theorem xact_serves (h : Serves d s) (hd : d.Sound) (hrst : firstByte tx ≠ opRst) :
    (xact tx s).1 = some ((List.range tx.length).map (d.sends tx)) ∧ Serves (d.does tx) (xact tx s).2 := by
  obtain ⟨seen, armed, ht⟩ := h
  have hexchange (hist : List Event) : s.transport.exchange hist tx = (some ((List.range tx.length).map (d.sends tx)),
      .simple { d.does tx with seen := seen + 1, armed := decide (firstByte tx = opRsten) }) := by
    rw [ht, Transport.exchange, Device.exchange, if_neg (by simp [hd.failAt]), does_counted hrst]
    rfl
  exact ⟨congrArg Prod.fst (hexchange _), seen + 1, _, congrArg Prod.snd (hexchange _)⟩

/-- A procedure that succeeds and leaves the device as `e`. -/
def Succeeds (e : Device) (p : Result × State) : Prop := p.1 = .success ∧ Serves e p.2

theorem Succeeds.onSuccess {go : State → Result × State} (hp : Succeeds d p) (hgo : Succeeds e (go p.2)) :
    Succeeds e (onSuccess p go) := by
  obtain ⟨r, t⟩ := p
  obtain ⟨rfl : r = .success, -⟩ := hp
  exact hgo

/-- The bytes the device answers to a frame. -/
def answerTo (d : Device) (tx : List Byte) : List Byte := (List.range tx.length).map (d.sends tx)

theorem Serves.xactThen_eq {go : List Byte → State → Result × State} (h : Serves d s) (hd : d.Sound)
    (hrst : firstByte tx ≠ opRst) : xactThen tx go s = go (answerTo d tx) (xact tx s).2 :=
  xactThen_answered (xact_serves h hd hrst).1

theorem rxStatus_answerTo (d : Device) (c : Cfg) : rxStatus (answerTo d (frameStatus c)) = d.statusByte := rfl

/-! ### A wait -/

/-- The device is read busy as often as it says, and then ready. -/
theorem pollLoop_serves (polls : Nat) (h : Serves d s) (hd : d.Sound)
    (hbusy : d.busyCnt ≤ s.tlim.toNat - s.pollcnt.toNat) (hpolls : s.tlim.toNat - s.pollcnt.toNat < polls) :
    Succeeds d.settled (pollLoop polls s) := by
  induction polls generalizing d s with
  | zero => omega
  | succ polls ih =>
    have hserves := (xact_serves h hd (frameStatus_ne_rst s.cfg)).2
    have hlim := xact_tlim (frameStatus s.cfg) s
    have hcnt := xact_pollcnt (frameStatus s.cfg) s
    rw [pollLoop_succ, h.xactThen_eq hd (frameStatus_ne_rst _), pollThen, rxStatus_answerTo, busy_statusByte]
    generalize (xact (frameStatus s.cfg) s).2 = t at hserves hlim hcnt ⊢
    rw [Device.does_status] at hserves
    split
    · rename_i hready
      have hzero : d.busyCnt = 0 := by
        have := (isBusy_iff hd.busyForever).not.mp (by simpa using hready)
        omega
      rw [Device.settled_of_ready hzero]
      rw [Device.afterStatusRead, if_pos hzero] at hserves
      exact ⟨rfl, hserves⟩
    · rename_i hnot
      have hpos : 0 < d.busyCnt := (isBusy_iff hd.busyForever).mp (by simpa using hnot)
      have hroom : t.pollcnt < t.tlim := by bv_omega
      rw [if_neg (by simpa [expired_iff] using hroom), ← Device.settled_afterStatusRead hpos]
      obtain ⟨hdown, -, hsound⟩ := d.afterStatusRead_spec
      have hnext : (t.pollcnt + 1).toNat = s.pollcnt.toNat + 1 := by bv_omega
      refine ih (s := paced (statusTaken _ t)) hserves (hsound hd) ?_ ?_ <;>
        simp only [paced_pollcnt, paced_tlim, statusTaken_pollcnt, statusTaken_tlim, hnext, hlim] <;> omega

theorem waitReady_serves {l : Millis} (h : Serves d s) (hd : d.Sound) (hbusy : d.busyCnt ≤ l.toNat) :
    Succeeds d.settled (waitReady l s) :=
  pollLoop_serves (s := { s with tlim := l, pollcnt := 0 }) _ h hd (by simpa using hbusy) (by simp)

/-- A ready device is as it was. -/
theorem waitReady_serves_ready {l : Millis} (h : Serves d s) (hd : d.Sound) (hready : d.busyCnt = 0) :
    Succeeds d (waitReady l s) := by
  have hw := waitReady_serves (l := l) h hd (by omega)
  rwa [Device.settled_of_ready hready] at hw

/-! ### The operations -/

theorem Serves.status_ready (h : Serves d s) (hd : d.Sound) (hready : d.busyCnt = 0) :
    Serves d (xact (frameStatus s.cfg) s).2 := by
  have hserves := (xact_serves h hd (frameStatus_ne_rst s.cfg)).2
  rwa [Device.does_status, Device.afterStatusRead, if_pos hready] at hserves

theorem verifyLatch_serves (h : Serves d s) (hd : d.Sound) (hready : d.busyCnt = 0) (hwel : d.wel = true)
    (hbit : s.cfg.welBit = 1) : Succeeds d (verifyLatch s) := by
  rw [verifyLatch_eq, h.xactThen_eq hd (frameStatus_ne_rst _), latchThen, rxStatus_answerTo, xact_cfg,
    wel_statusByte hbit, hwel]
  exact ⟨rfl, h.status_ready hd hready⟩

theorem enableLatch_serves (h : Serves d s) (hd : d.Sound) (hready : d.busyCnt = 0) (hbit : s.cfg.welBit = 1) :
    Succeeds { d with wel := true } (enableLatch s) := by
  have hserves := (xact_serves h hd frameWren_ne_rst).2
  rw [Device.does_wren hd hready] at hserves
  have hwait := waitReady_serves_ready (l := (xact (frameBare opWren) s).2.cfg.toWe) hserves hd.withWel hready
  rw [enableLatch, h.xactThen_eq hd frameWren_ne_rst]
  refine hwait.onSuccess (verifyLatch_serves hwait.2 hd.withWel hready rfl ?_)
  rwa [kept_cfg.waitReady]

theorem writeEnable_serves (h : Serves d s) (hd : d.Sound) (hready : d.busyCnt = 0) (hbit : s.cfg.welBit = 1) :
    Succeeds { d with wel := true } (writeEnable s) := by
  have hwait := waitReady_serves_ready (l := s.cfg.toWe) h hd hready
  rw [writeEnable_eq]
  exact hwait.onSuccess (enableLatch_serves hwait.2 hd hready (by rwa [kept_cfg.waitReady]))

/-- The device when the program is done. -/
def programmed (a : Addr) (data : List Byte) (d : Device) : Device :=
  Device.settled
    { d with wel := true, mem := programArray (frameProgram a data) d.mem 0 data, busyCnt := d.bPp, mutating := true }

theorem programThen_serves (h : Serves { d with wel := true } s) (hd : d.Sound) (hready : d.busyCnt = 0)
    (hbusy : d.bPp ≤ s.cfg.toProg.toNat) : Succeeds (programmed s.addr (payload s) d) (programThen s) := by
  have hserves := (xact_serves h hd.withWel (frameProgram_ne_rst s.addr (payload s))).2
  rw [Device.does_program (d := { d with wel := true }) hready rfl] at hserves
  rw [programThen, mutate_eq, h.xactThen_eq hd.withWel (frameProgram_ne_rst _ _)]
  exact waitReady_serves hserves ⟨hd.failAt, hd.busyForever, hd.noLatch⟩ hbusy

theorem kept_operand_bytes : Kept fun s => (s.cfg, s.addr, payload s) :=
  ⟨fun _ _ => rfl, fun _ _ => rfl, fun _ _ => rfl, fun _ _ _ => rfl, fun _ _ => rfl⟩

theorem pageProgram_serves (h : Serves d s) (hd : d.Sound) (hready : d.busyCnt = 0) (hbit : s.cfg.welBit = 1)
    (hbusy : d.bPp ≤ s.cfg.toProg.toNat) (hfits : tooLong s.cfg s.len = false) :
    Succeeds (programmed s.addr (payload s) d) (pageProgram s) := by
  have hwe := writeEnable_serves h hd hready hbit
  have hkept := kept_operand_bytes.writeEnable s
  simp only [Prod.mk.injEq] at hkept
  obtain ⟨hcfg, haddr, hdata⟩ := hkept
  rw [pageProgram_eq hfits, ← haddr, ← hdata]
  exact hwe.onSuccess (programThen_serves hwe.2 hd hready (by rwa [hcfg]))

theorem rxData_length (rx : List Byte) (n : Nat) : (rxData rx n).length = n := by simp [rxData]

/-- The data bytes a ready device answers with are its array's. -/
theorem rxData_answerTo (hready : d.busyCnt = 0) (c : Cfg) (a : Addr) (n : Nat) :
    rxData (answerTo d (frameRead c a n)) n =
      (List.range n).map fun k => Memory.read d.mem (arrayAddr (frameRead c a n) k) := by
  refine List.map_congr_left fun k hk => ?_
  have hlt : 4 + k < (frameRead c a n).length := by
    have := List.mem_range.mp hk
    simp [frameRead, addrBytes]
    omega
  rw [← Device.sends_read hready k, rxByte, answerTo]
  simp [hlt, Config.hdr]

/-- What `read` uses of the state. -/
def operands (s : State) : Cfg × Addr × Len × Memory := (s.cfg, s.addr, s.len, s.rxd)

theorem xact_operands (tx : List Byte) (s : State) : operands (xact tx s).2 = operands s := rfl
theorem statusTaken_operands (rx : List Byte) (s : State) : operands (statusTaken rx s) = operands s := rfl

/-- `RXD` holds the data bytes afterwards. -/
theorem dataTaken_rxd (hwf : s.rxd.wf) (rx : List Byte) :
    Memory.readBytes (dataTaken rx s).2.rxd 0 s.len.toNat = rxData rx s.len.toNat := by
  have hback := Memory.readBytes_writeBytes hwf 0 (rxData rx s.len.toNat)
  rwa [rxData_length] at hback

theorem read_serves (h : Serves d s) (hd : d.Sound) (hready : d.busyCnt = 0) (hfits : tooLong s.cfg s.len = false)
    (hwf : s.rxd.wf) : (read s).1 = .success ∧ Memory.readBytes (read s).2.rxd 0 s.len.toNat =
      (List.range s.len.toNat).map fun k => Memory.read d.mem (arrayAddr (frameRead s.cfg s.addr s.len.toNat) k) := by
  have hnot : d.isBusy = false := by
    rw [← Bool.not_eq_true, isBusy_iff hd.busyForever]
    omega
  have hserves := h.status_ready hd hready
  have hkept := xact_operands (frameStatus s.cfg) s
  rw [read_eq hfits, h.xactThen_eq hd (frameStatus_ne_rst _), checkThen, rxStatus_answerTo, busy_statusByte, hnot,
    if_neg Bool.false_ne_true]
  generalize (xact (frameStatus s.cfg) s).2 = t at hserves hkept ⊢
  simp only [operands, Prod.mk.injEq] at hkept
  obtain ⟨hcfg, haddr, hlen, hrxd⟩ := hkept
  rw [hcfg, haddr, hlen, Serves.xactThen_eq (s := statusTaken _ t) hserves hd (frameRead_ne_rst _ _ _),
    ← rxData_answerTo hready]
  generalize hx : (xact (frameRead s.cfg s.addr s.len.toNat) (statusTaken (answerTo d (frameStatus s.cfg)) t)).2 = x
  have hkept := xact_operands (frameRead s.cfg s.addr s.len.toNat) (statusTaken (answerTo d (frameStatus s.cfg)) t)
  rw [hx, statusTaken_operands] at hkept
  simp only [operands, Prod.mk.injEq] at hkept
  obtain ⟨-, -, hxlen, hxrxd⟩ := hkept
  replace hxlen := hxlen.trans hlen
  replace hxrxd := hxrxd.trans hrxd
  refine ⟨rfl, ?_⟩
  rw [← hxlen]
  exact dataTaken_rxd (hxrxd ▸ hwf) _

/-- What was programmed is what the array then holds (R251). -/
theorem programmed_read (hm : d.mem.wf) (c : Cfg) (hlen : data.length ≤ 2 ^ 24) :
    ((List.range data.length).map fun k =>
      Memory.read (programmed a data d).mem (arrayAddr (frameRead c a data.length) k)) = data := by
  refine List.ext_getElem (by simp) fun i hi hi' => ?_
  have haddr : frameAddr (frameRead c a data.length) = frameAddr (frameProgram a data) :=
    (frameAddr_of_addrBytes _ a _).trans (frameAddr_of_addrBytes _ a _).symm
  have hread := read_programArray (tx := frameProgram a data) hm 0 hlen i hi'
  rw [Nat.zero_add] at hread
  simpa [programmed, (Device.settled_spec _).2.1, arrayAddr_congr haddr] using hread

/-! ### The two runs -/

/-- What no procedure writes but `RXD`, which `read` alone does. -/
theorem kept_surroundings : Kept fun s => (s.cfg, s.port, s.rxd, s.resetLine, s.linkHung) :=
  ⟨fun _ _ => rfl, fun _ _ => rfl, fun _ _ => rfl, fun _ _ _ => rfl, fun _ _ => rfl⟩

theorem kept_port : Kept State.port :=
  ⟨fun _ _ => rfl, fun _ _ => rfl, fun _ _ => rfl, fun _ _ _ => rfl, fun _ _ => rfl⟩

/-- The run of `pageProgram` from the port on. -/
theorem run_pageProgram {q : Request} {rest : List Request} {n : Len} (hu : Undisturbed s) (hidle : isIdle s = true)
    (hp : s.port = q :: rest) (hq : q.code = .request 4 a n) (hn : n.toNat = q.txd.length) (h : Serves d s)
    (hd : d.Sound) (hready : d.busyCnt = 0) (hbit : s.cfg.welBit = 1) (hbusy : d.bPp ≤ s.cfg.toProg.toNat)
    (hfits : tooLong s.cfg n = false) :
    ∃ k t, steps k s = .next t ∧ isIdle t = true ∧ resultOut t = some 0 ∧ Undisturbed t ∧ t.cfg = s.cfg ∧
      t.port = rest ∧ t.rxd = s.rxd ∧ Serves (programmed a q.txd d) t := by
  have hdecode : decode q.code = .ok (.pageProgram a n) := by rw [hq]; rfl
  have hends : Ends _ s (pageProgram (latched (.pageProgram a n) (takeRequest q rest s))) :=
    ends_of_request hu hidle hp hdecode rfl
  obtain ⟨k, -, hsteps⟩ := hends
  have hpayload : payload (latched (.pageProgram a n) (takeRequest q rest s)) = q.txd :=
    (congrArg _ hn).trans (Memory.readBytes_writeBytes Memory.wf_nil 0 q.txd)
  obtain ⟨hsuccess, hserves⟩ := pageProgram_serves (s := latched (.pageProgram a n) (takeRequest q rest s)) h hd hready
    hbit hbusy hfits
  rw [hpayload] at hserves
  have hkept := kept_surroundings.pageProgram (latched (.pageProgram a n) (takeRequest q rest s))
  simp only [Prod.mk.injEq] at hkept
  obtain ⟨hcfg, hport, hrxd, hreset, hhung⟩ := hkept
  exact ⟨k, _, hsteps, rfl, by rw [hsuccess]; rfl, ⟨hreset.trans hu.1, hhung.trans hu.2⟩, hcfg, hport, hrxd, hserves⟩

/-- The run of `read` from the port on. -/
theorem run_read {q : Request} {rest : List Request} {n : Len} (hu : Undisturbed s) (hidle : isIdle s = true)
    (hp : s.port = q :: rest) (hq : q.code = .request 5 a n) (h : Serves d s) (hd : d.Sound) (hready : d.busyCnt = 0)
    (hfits : tooLong s.cfg n = false) (hwf : s.rxd.wf) :
    ∃ k t, steps k s = .next t ∧ isIdle t = true ∧ resultOut t = some 0 ∧ t.port = rest ∧
      rxdOut t = some ((List.range n.toNat).map fun k =>
        Memory.read d.mem (arrayAddr (frameRead s.cfg a n.toNat) k)) := by
  have hdecode : decode q.code = .ok (.read a n) := by rw [hq]; rfl
  have hends : Ends _ s (read (latched (.read a n) (takeRequest q rest s))) := ends_of_request hu hidle hp hdecode rfl
  obtain ⟨k, -, hsteps⟩ := hends
  obtain ⟨hsuccess, hdata⟩ := read_serves (s := latched (.read a n) (takeRequest q rest s)) h hd hready hfits hwf
  have hport := kept_port.read (fun _ _ => rfl) (latched (.read a n) (takeRequest q rest s))
  have hoperands := kept_operands.read (fun _ _ => rfl) (latched (.read a n) (takeRequest q rest s))
  simp only [Prod.mk.injEq] at hoperands
  obtain ⟨hop, hlen⟩ := hoperands
  refine ⟨k, _, hsteps, rfl, by rw [hsuccess]; rfl, hport, ?_⟩
  rw [rxdOut, if_pos ((succeeded_eq_true (s := endOp _ _) (op := hostRead)).mpr ⟨rfl, hsuccess, hop⟩), endOp_rxd,
    endOp_len, hlen]
  exact congrArg some hdata

/-- Settles O53: both runs succeed, and the array holds what was programmed. -/
theorem readAfterPageProgramReturnsTheData : Obligations.ReadAfterPageProgramReturnsTheData := by
  intro s d a data hu hidle hok hbit hwf hsimple hm hready hforever hlatch hfail hbusy hfits hp
  have hpage := Cfg.pageSize_le hok
  have hlen : (BitVec.ofNat 16 data.length).toNat = data.length := by
    rw [BitVec.toNat_ofNat, Nat.mod_eq_of_lt (by omega)]
  have hnot : tooLong s.cfg (BitVec.ofNat 16 data.length) = false := tooLong_eq_false.mpr (by rwa [hlen])
  have hd : d.Sound := ⟨hfail, hforever, hlatch⟩
  obtain ⟨m, t, hsteps, hidle', hresult, hu', hcfg, hport, hrxd, hserves⟩ :=
    run_pageProgram hu hidle hp rfl hlen ⟨d.seen, d.armed, hsimple⟩ hd hready hbit hbusy hnot
  obtain ⟨hready', -, hsound⟩ := Device.settled_spec
    { d with wel := true, mem := programArray (frameProgram a data) d.mem 0 data, busyCnt := d.bPp, mutating := true }
  obtain ⟨n, u, hsteps', hidle'', hresult', hport', hdata⟩ :=
    run_read hu' hidle' hport rfl hserves (hsound ⟨hfail, hforever, hlatch⟩) hready' (hcfg ▸ hnot) (hrxd ▸ hwf)
  rw [hlen, programmed_read (data := data) hm _ (by omega)] at hdata
  exact ⟨m, n, t, u, hsteps, hidle', hresult, by rw [hport]; rfl, hsteps', hidle'', hresult', hport', hdata⟩

end Sys2Proof.Machine.Procedure
end
